-- ==== Sys2Proof/Word.lean ====
section
/-! DEFINITION. The bit vectors of the block: bytes, 16-bit result values and 32-bit register words
(00_scope.md R8, R9, R10). Every one of them is unsigned. -/

namespace Sys2Proof

/-- An 8-bit unsigned byte (R10). -/
abbrev Byte := BitVec 8

/-- A 16-bit unsigned value: the width of the format version and of the frame fields (R12, R36-R40). -/
abbrev Half := BitVec 16

/-- A 32-bit register word or bus datum (R8 "Register width", R21). -/
abbrev Word := BitVec 32

/-- A finite byte sequence, first byte at index 0 (R10). -/
abbrev Bytes := List Byte

end Sys2Proof
end

