-- ==== Sys2Proof/Syntax.lean ====
section
/-! DEFINITION. The seven operations of the command word (30_encoding.md R100-R107). -/

namespace Sys2Proof

/-- One command. There is one constructor per row of the opcode table (R106). The only operands a
command word carries are the two flags of UNPACK (R108): every other operand is fixed state. -/
inductive Instr where
  /-- UNPACK, OP 0x01 (45_pipeline.md R238): `dc` is the DC bit (checks disabled), `rh` the RH bit
  (header removed). -/
  | unpack (dc rh : Bool)
  /-- REVERSE, OP 0x02 (41_byte_reverser.md R162). -/
  | reverse
  /-- ECBDEC, OP 0x03 (42_ecb_codec.md R183). -/
  | ecbdec
  /-- PARSE, OP 0x04 (43_frame_parser.md R203). -/
  | parse
  /-- VERIFY, OP 0x05 (44_checksum.md R220). -/
  | verify
  /-- CRC16, OP 0x06 (44_checksum.md R218). -/
  | crc16
  /-- STRIP, OP 0x07 (45_pipeline.md R248). -/
  | strip
deriving DecidableEq, Repr

end Sys2Proof
end

