-- ==== Sys2Proof/WellFormed.lean ====
section
/-! DEFINITION. What a well-formed command word is (30_encoding.md R104, R105) and which values the
open parameter N_BUF may take (00_scope.md R8). -/

namespace Sys2Proof

/-- The RSV field, bits [31:10], is zero (R104). -/
def reservedBitsZero (v : Word) : Bool := v.extractLsb' 10 22 == 0

/-- OP, bits [7:0], is one of 0x01-0x07 (R101). -/
def opcodeListed (v : Word) : Bool :=
  [1, 2, 3, 4, 5, 6, 7].contains (v.extractLsb' 0 8).toNat

/-- DC and RH, bits [9:8], are set with OP = 0x01 only (R102, R103). -/
def flagsAllowed (v : Word) : Bool :=
  v.extractLsb' 0 8 == 1 || v.extractLsb' 8 2 == 0

/-- The legality predicate `legal(v)` of R105, in its own three clauses. -/
def legal (v : Word) : Bool := reservedBitsZero v && opcodeListed v && flagsAllowed v

/-- Every term of `Instr` is a legal command: DC and RH exist in the syntax on UNPACK alone and the
reserved bits not at all, so a term cannot break R102-R104. The checks that can fail are those on
command words, `legal`. -/
def Instr.wellFormed : Instr → Bool
  | .unpack _ _ => true
  | .reverse => true
  | .ecbdec => true
  | .parse => true
  | .verify => true
  | .crc16 => true
  | .strip => true

/-- The values R8 admits for N_BUF: a multiple of 16 with 32 <= N_BUF <= 65536. -/
def nBufLegal (n : Nat) : Bool := n % 16 == 0 && decide (32 ≤ n) && decide (n ≤ 65536)

end Sys2Proof
end

