-- ==== Sys2Proof/Decode.lean ====
section
/-! DEFINITION. The decoder and the encoder of the command word (30_encoding.md R100-R110). Decoding is
total: every 32-bit word is one of the ten legal commands or is rejected by name. -/

namespace Sys2Proof

/-- Why a word is no command. Software sees every reason as ConfigError ILLEGAL_CMD (R109). -/
inductive DecodeError where
  /-- An RSV bit is set (R104). -/
  | reservedBits
  /-- OP is 0x00 or 0x08-0xFF (R101). -/
  | illegalOp
  /-- DC or RH is set with an OP other than UNPACK (R102, R103). -/
  | flagsNotAllowed
deriving DecidableEq, Repr

/-- OP = v[7:0] (R101). -/
def opField (v : Word) : BitVec 8 := v.extractLsb' 0 8

/-- DC = v[8] (R102). -/
def dcField (v : Word) : Bool := v.getLsbD 8

/-- RH = v[9] (R103). -/
def rhField (v : Word) : Bool := v.getLsbD 9

/-- RSV = v[31:10] (R104). -/
def rsvField (v : Word) : BitVec 22 := v.extractLsb' 10 22

/-- A command whose OP admits neither DC nor RH (R102, R103). -/
def decodeFlagless (v : Word) (i : Instr) : Except DecodeError Instr :=
  if dcField v || rhField v then .error .flagsNotAllowed else .ok i

/-- The command a word stands for, or the reason it is illegal (R105-R107, R110). -/
def decode (v : Word) : Except DecodeError Instr :=
  if rsvField v ≠ 0 then .error .reservedBits
  else
    match (opField v).toNat with
    | 1 => .ok (.unpack (dcField v) (rhField v))
    | 2 => decodeFlagless v .reverse
    | 3 => decodeFlagless v .ecbdec
    | 4 => decodeFlagless v .parse
    | 5 => decodeFlagless v .verify
    | 6 => decodeFlagless v .crc16
    | 7 => decodeFlagless v .strip
    | _ => .error .illegalOp

/-- A word of the CMD32 format from its fields; RSV is zero (R100). -/
def packFields (op : BitVec 8) (dc rh : Bool) : Word :=
  0#22 ++ BitVec.ofBool rh ++ BitVec.ofBool dc ++ op

/-- The command word of a command (R106, R107). -/
def encode : Instr → Word
  | .unpack dc rh => packFields 0x01 dc rh
  | .reverse => packFields 0x02 false false
  | .ecbdec => packFields 0x03 false false
  | .parse => packFields 0x04 false false
  | .verify => packFields 0x05 false false
  | .crc16 => packFields 0x06 false false
  | .strip => packFields 0x07 false false

/-- What the decoder reads from the instruction whose low `nbits` bits are `w`, every higher bit 0. A
command is one 32-bit word whatever the number of bits given (R110), so bits that would lie above bit
31 are no part of a command. -/
def decodeTableWord (nbits w : Nat) : Option Instr :=
  match decode (BitVec.ofNat 32 (w % 2 ^ nbits)) with
  | .ok i => some i
  | .error _ => none

end Sys2Proof
end

