-- ==== Sys2Proof/Machine/Bus.lean ====
section
/-! DEFINITION. The words in which the outside world talks to the block: bus transactions, their
responses, and the events of the host and of the reset input (00_scope.md R14; 20_memory.md R70, R90;
30_encoding.md R111, R112). -/

namespace Sys2Proof.Machine

/-- The access widths the bus slave port carries, n in 1, 2, 4 bytes (R14, R90). -/
inductive Width where
  | byte | half | word
deriving DecidableEq, Repr

/-- The number n of bytes of an access (R14). -/
def Width.bytes : Width → Nat
  | .byte => 1
  | .half => 2
  | .word => 4

/-- Where a transaction goes: an offset inside the aperture, as every address of the spec is written, or
a bus address A, written `BASE + a` there (R14, R70). -/
inductive BusAddr where
  | offset (a : Nat)
  | bus (A : Nat)
deriving DecidableEq, Repr

/-- The direction of a transaction (R75 `dir`). -/
inductive Dir where
  | read | write
deriving DecidableEq, Repr

/-- One bus transaction of the host (R14). -/
inductive Txn where
  /-- `MemRead(addr, n)`. -/
  | read (addr : BusAddr) (n : Width)
  /-- `MemWrite(addr, n, v)`; the low n bytes of `v` are the value. -/
  | write (addr : BusAddr) (n : Width) (v : Word)
deriving DecidableEq, Repr

/-- The response of the bus slave port to one transaction (R14, R75, R90). -/
inductive BusResponse where
  /-- OK, to a write. -/
  | ok
  /-- OK with the value read, zero-extended to 32 bits. -/
  | data (v : Word)
  /-- The error response. -/
  | busError
deriving DecidableEq, Repr, Inhabited

/-- One event of the outside world: what the host issues next, or a change of `rst_n` (R18, R90). -/
inductive EnvEvent where
  /-- One bus transaction. -/
  | access (t : Txn)
  /-- The host's `wait` (R112): read STATUS, and again while bit 0 of the value read is 1. -/
  | wait
  /-- The host's `readout` (R112): read OUT_LEN giving m, then the bytes OBUF+0 to OBUF+(m-1). -/
  | readout
  /-- `rst_n` goes to 0 (R290). -/
  | rstLow
  /-- `rst_n` goes to 1 (R290). -/
  | rstHigh
deriving DecidableEq, Repr

end Sys2Proof.Machine
end

