-- ==== Sys2Proof/Config.lean ====
section
/-! DEFINITION. The implementation parameters of 00_scope.md R8, and the free values: constants without a
body, one for each value the spec leaves unspecified (93_implementation_defined.md section 2). N_BUF is
the one open parameter that stands in State, as the content of BUFSZ. -/

namespace Sys2Proof.Config

/-- HDR_BYTES: the plaintext header (R8). -/
@[simp] abbrev hdrBytes : Nat := 16

/-- PREFIX_BYTES: the format-version prefix (R8). -/
@[simp] abbrev prefixBytes : Nat := 2

/-- BLOCK_BYTES: the AES block (R8). -/
@[simp] abbrev blockBytes : Nat := 16

/-- SUPPORTED_FMT: the supported set is exactly this value (R8, R240). -/
@[simp] abbrev supportedFmt : Half := 0x0010

/-- CRC_POLY (R8, R215). -/
@[simp] abbrev crcPoly : Half := 0x1021

/-- CRC_INIT (R8, R215). -/
@[simp] abbrev crcInit : Half := 0x0000

/-- CRC_XOROUT (R8, R215). -/
@[simp] abbrev crcXorOut : Half := 0x0000

/-- The size of the aperture (R70). -/
@[simp] abbrev apertureBytes : Nat := 0x40000

/-- The value of N_BUF in the reference configuration (R8). DESIGN CHOICE: `State.reset` stands for a block
of this configuration (assumption 1). -/
@[simp] abbrev nBufReference : Nat := 65536

/-- The open parameter BASE in units of the aperture (R8, R70). Assumption 9. -/
opaque baseIndex : Nat

/-- BASE, a multiple of 0x40000 (R70). -/
def base : Nat := baseIndex * apertureBytes

/-- The open parameter LATENCY: how many events of the outside world come between an acceptance and its
completion, drawn at the acceptance (R8, R141). Every natural number is finite, so weak fairness (R306)
holds. Assumption 4. -/
opaque latency : Nat → Nat

/-- What a result register reads while BUSY = 1: drawn afresh on every read (R42). Assumption 5. -/
opaque busyResult : Nat → Word

/-- The content of an IBUF cell that nothing has written since a reset: one draw for each reset and cell
(R46). Assumption 2. -/
opaque ibufReset : Nat → Nat → Byte

/-- The content of an OBUF cell that the last completion has not written: unspecified (R47, R140).
Assumption 3. -/
opaque obufUnspecified : Nat → Nat → Byte

/-- The response to a transaction that is issued while `rst_n` = 0: unspecified (R290). Assumption 6. -/
opaque heldResponse : Nat → Machine.BusResponse

end Sys2Proof.Config
end

