-- ==== Sys2Proof/Machine/State.lean ====
section
/-! DEFINITION. The whole state of the block (10_state.md R20), as plain data, the reasons a step can
stop, and the state after reset (R53). -/

namespace Sys2Proof.Machine

/-- The storage of one buffer: (index, byte) pairs with strictly rising indexes. An unlisted index is a
cell that nothing has written, and reads as no value at this level (`Memory.get?`). -/
abbrev Memory := List Host.Cell

/-- The hidden sequencer state `seq` (R50). -/
inductive SeqState where
  | idle | readHeader | versionGate | decrypt | verify | stripHeader | emit | primitive
deriving DecidableEq, Repr

/-- The six result registers FMT_VER, FW_VER, DATA_SIZE, CRC_STORED, CRC_CALC, DATA_LEN (R36-R41), which
is also the result record `res` of an execution function (R136). -/
structure Results where
  /-- FMT_VER[15:0] (R36). -/
  fmt : Half
  /-- FW_VER[15:0] (R37). -/
  fwv : Half
  /-- DATA_SIZE[15:0] (R38). -/
  dsz : Half
  /-- CRC_STORED[15:0] (R39). -/
  crcs : Half
  /-- CRC_CALC[15:0] (R40). -/
  crcc : Half
  /-- DATA_LEN[16:0] (R41). -/
  dlen : BitVec 17
deriving DecidableEq, Repr

/-- `res0`, every field 0 (R136). -/
def res0 : Results := { fmt := 0, fwv := 0, dsz := 0, crcs := 0, crcc := 0, dlen := 0 }

/-- The registers of the register page (R21). -/
inductive Reg where
  | id | bufsz | ctrl | status | cmd | inLen | outLen
  | fmtVer | fwVer | dataSize | crcStored | crcCalc | dataLen
  | key0 | key1 | key2 | key3
deriving DecidableEq, Repr

/-- The error kinds (60_exceptions.md R260). -/
inductive ErrorKind where
  | config | unsupportedVersion | blockAlignment | truncatedFrame | checksumMismatch | shortContainer
deriving DecidableEq, Repr

/-- The sub-causes of a ConfigError (R261). -/
inductive CfgSub where
  | none | illegalCmd | keyNotLoaded | lengthRange
deriving DecidableEq, Repr

/-- The outcome of an execution function, `Ok(out, res)` or `Err(kind, sub, res)` (40_command_common.md
R132). -/
inductive CmdOutcome where
  | ok (out : Bytes) (res : Results)
  | err (kind : ErrorKind) (sub : CfgSub) (res : Results)
deriving DecidableEq, Repr

/-- The block, the signals at its edge, and the model's own bookkeeping. Constants (ID) and derived
signals (KEY_VALID, irq) have no storage (R22, R29, R270). -/
structure State where
  /-- N_BUF, the byte size of IBUF and of OBUF, which BUFSZ reads (R8, R23). No step changes it. -/
  nBuf : Nat
  /-- CTRL.IE (R24). -/
  ie : Bool
  /-- STATUS.BUSY (R27). -/
  busy : Bool
  /-- STATUS.DONE (R28). -/
  done : Bool
  /-- STATUS.ERR (R28). -/
  err : Bool
  /-- STATUS.WR_BUSY (R30). -/
  wrBusy : Bool
  /-- STATUS.ERRCODE (R31, R260). -/
  errcode : BitVec 4
  /-- STATUS.CFGSUB (R31, R261). -/
  cfgsub : BitVec 3
  /-- CMD, the last accepted command word (R33). -/
  cmd : Word
  /-- IN_LEN (R34). -/
  inLen : Word
  /-- OUT_LEN[16:0] (R35). -/
  outLen : BitVec 17
  /-- The six result registers (R36-R41). -/
  res : Results
  /-- KEY0 (R43). -/
  key0 : Word
  /-- KEY1 (R43). -/
  key1 : Word
  /-- KEY2 (R43). -/
  key2 : Word
  /-- KEY3 (R43). -/
  key3 : Word
  /-- KW[3:0], the key-written bits (R44). -/
  kw : BitVec 4
  /-- IBUF, the cells the host has written since the last reset (R46). -/
  ibuf : Memory
  /-- OBUF, the cells the last completion has written (R47, R140). -/
  obuf : Memory
  /-- `seq` (R50). -/
  seq : SeqState
  /-- The input `rst_n` (R90, R290). -/
  rstN : Bool
  /-- The model's own: the events of the outside world still to come, oldest first (R18, R84). -/
  env : List EnvEvent
  /-- The response on the bus slave port to the last transaction, none before the first (R90). -/
  resp : Option BusResponse
  /-- The model's own: how many more events come before the completion of the running command (R141). -/
  latency : Nat
  /-- The model's own: the number of free values drawn so far. -/
  draws : Nat
  /-- The model's own: the number of resets since power-on; it selects the draw of IBUF (R46). -/
  resets : Nat
deriving DecidableEq, Repr

/-- Why the machine stops with a fault. -/
inductive Fault where
  /-- The bus error `BusError(a, n, dir)` of R75: raised by `transact` on a transaction of the host to an
  unmapped offset, of an illegal width or alignment, or outside the aperture. The spec has the model of
  the host treat it as a fault of the host program. Safe: hardware may go on, with the block's state
  unchanged. -/
  | busError (addr : BusAddr) (n : Width) (dir : Dir)
deriving DecidableEq, Repr

/-- Why the machine refuses. -/
inductive Refusal where
  /-- Raised by `exec` for an instruction without a meaning. Every instruction has its meaning, so nothing
  raises it. Safe. -/
  | notModelled (mnemonic : String)
deriving DecidableEq, Repr

/-- The values of R53 for a block of the given N_BUF, with `rst_n` back at 1. IBUF and OBUF list nothing:
their content is unspecified. The model's own fields start at zero and nothing pending (assumption 7). -/
def State.resetWith (nBuf : Nat) : State :=
  { nBuf := nBuf
    ie := false
    busy := false, done := false, err := false, wrBusy := false, errcode := 0, cfgsub := 0
    cmd := 0, inLen := 0, outLen := 0
    res := res0
    key0 := 0, key1 := 0, key2 := 0, key3 := 0, kw := 0
    ibuf := [], obuf := []
    seq := .idle
    rstN := true
    env := [], resp := none, latency := 0, draws := 0, resets := 0 }

/-- The machine right after reset (R53), in the reference configuration (R8; assumption 1). -/
def State.reset : State := State.resetWith Config.nBufReference

end Sys2Proof.Machine
end

