-- ==== Sys2Proof/Machine/Operands.lean ====
section
/-! DEFINITION. Reading one byte of a buffer, the bytes of a register word, and the two operands a command
can have: IBUF[0..IN_LEN) and the key (30_encoding.md R108). -/

namespace Sys2Proof.Machine

/-- The byte stored at an index, none for a cell that nothing has written. -/
def Memory.get? : Memory → Nat → Option Byte
  | [], _ => none
  | (b, x) :: m, a => if a = b then some x else Memory.get? m a

/-- IBUF[i]: what the host wrote there, or the cell's draw of the last reset (R46). -/
def ibufByte (s : State) (i : Nat) : Byte := (s.ibuf.get? i).getD (Config.ibufReset s.resets i)

/-- OBUF[i]: what the last completion wrote there, or an unspecified byte (R47, R140). -/
def obufByte (s : State) (i : Nat) : Byte := (s.obuf.get? i).getD (Config.obufUnspecified s.resets i)

/-- OBUFread of R77: a cell at or beyond OUT_LEN reads 0 (R47). -/
def obufRead (s : State) (i : Nat) : Byte := if i < s.outLen.toNat then obufByte s i else 0

/-- `u16le(B, o)`, the little-endian 16-bit value at offset o (R12). -/
def u16le (B : Bytes) (o : Nat) : Half :=
  (B.getD o 0).setWidth 16 + 256#16 * (B.getD (o + 1) 0).setWidth 16

/-- The four bytes of a register word, least significant first (R43). -/
def wordBytes (w : Word) : Bytes :=
  [w.extractLsb' 0 8, w.extractLsb' 8 8, w.extractLsb' 16 8, w.extractLsb' 24 8]

/-- The key bytes K = k[0] || ... || k[15] in register order (R43). -/
def keyBytes (s : State) : Bytes :=
  wordBytes s.key0 ++ wordBytes s.key1 ++ wordBytes s.key2 ++ wordBytes s.key3

/-- The operand B = IBUF[0..IN_LEN) (R108, R132). -/
def operand (s : State) : Bytes := (List.range s.inLen.toNat).map (ibufByte s)

end Sys2Proof.Machine
end

