-- ==== Sys2Proof/Machine/Crc.lean ====
section
/-! DEFINITION. The CRC-16/XMODEM generator (44_checksum.md R215). -/

namespace Sys2Proof.Machine

/-- One shift of the CRC register (R215). -/
def crcBit (c : Half) : Half :=
  if c.getLsbD 15 then (c <<< 1) ^^^ Config.crcPoly else c <<< 1

/-- n shifts of the CRC register (R215). -/
def crcBits : Nat → Half → Half
  | 0, c => c
  | n + 1, c => crcBits n (crcBit c)

/-- One byte enters the CRC register at the top (R215). -/
def crcByte (c : Half) (b : Byte) : Half := crcBits 8 (c ^^^ (b.setWidth 16 <<< 8))

/-- `Crc16(B)` (R215). -/
def crc16 (B : Bytes) : Half := B.foldl crcByte Config.crcInit ^^^ Config.crcXorOut

end Sys2Proof.Machine
end

