-- ==== Sys2Proof/Machine/Frame.lean ====
section
/-! DEFINITION. The data-path functions on byte sequences that are neither cipher nor CRC: reversal
(41_byte_reverser.md R160), the frame parser (43_frame_parser.md R200, R201) and the header strip
(45_pipeline.md R236). -/

namespace Sys2Proof.Machine

/-- `Rev(B)`: R[i] = B[len(B) - 1 - i], over the whole sequence (R160). -/
def rev (B : Bytes) : Bytes := B.reverse

/-- A parsed frame (R201). The ten reserved bytes do not appear in it. -/
structure Frame where
  fwv : Half
  dsz : Half
  crc : Half
  data : Bytes
deriving DecidableEq, Repr

/-- `Parse(P)`, none for TruncatedFrameError (R201). No field is checked (R202, R204). -/
def parseFrame (P : Bytes) : Option Frame :=
  if P.length < Config.hdrBytes then none
  else some { fwv := u16le P 0, dsz := u16le P 2, crc := u16le P 4, data := P.drop Config.hdrBytes }

/-- The result record r with the fields of a parsed frame and the payload length len(P) - 16 (R203,
R220, R238). -/
def Results.withFrame (r : Results) (f : Frame) (P : Bytes) : Results :=
  { r with
    fwv := f.fwv, dsz := f.dsz, crcs := f.crc
    dlen := BitVec.ofNat 17 (P.length - Config.hdrBytes) }

/-- `Strip(P) = P[16..len(P))` (R236). -/
def strip (P : Bytes) : Bytes := P.drop Config.hdrBytes

end Sys2Proof.Machine
end

