-- ==== Sys2Proof/Machine/Flags.lean ====
section
/-! DEFINITION. The STATUS register as software reads it, the two derived signals KEY_VALID and irq, and
the error codes (10_state.md R26-R31; 60_exceptions.md R260, R261, R270). -/

namespace Sys2Proof.Machine

/-- STATUS.KEY_VALID = KW[0] & KW[1] & KW[2] & KW[3] (R29). -/
def keyValid (s : State) : Bool :=
  s.kw.getLsbD 0 && s.kw.getLsbD 1 && s.kw.getLsbD 2 && s.kw.getLsbD 3

/-- The interrupt output `irq = CTRL.IE & (STATUS.DONE | STATUS.ERR)` (R270). -/
def irq (s : State) : Bool := s.ie && (s.done || s.err)

/-- STATUS, its fields placed as R26 places them; the reserved bits read 0 (R54). -/
def statusWord (s : State) : Word :=
  0#17 ++ s.cfgsub ++ s.errcode ++ 0#3 ++ BitVec.ofBool s.wrBusy ++ BitVec.ofBool (keyValid s) ++
    BitVec.ofBool s.err ++ BitVec.ofBool s.done ++ BitVec.ofBool s.busy

/-- `code(kind)`, the ERRCODE of an error kind (R260). -/
def ErrorKind.code : ErrorKind → BitVec 4
  | .config => 1
  | .unsupportedVersion => 2
  | .blockAlignment => 3
  | .truncatedFrame => 4
  | .checksumMismatch => 5
  | .shortContainer => 6

/-- The CFGSUB of a sub-cause; 0 when the error is no ConfigError (R261). -/
def CfgSub.code : CfgSub → BitVec 3
  | .none => 0
  | .illegalCmd => 1
  | .keyNotLoaded => 2
  | .lengthRange => 3

/-- The state of the sequencer in which UNPACK detects an error, none for the errors found before
ReadHeader and for the one UNPACK never raises (R241, R205). -/
def ErrorKind.unpackStage : ErrorKind → Option SeqState
  | .config => none
  | .shortContainer => some .readHeader
  | .unsupportedVersion => some .versionGate
  | .blockAlignment => some .decrypt
  | .truncatedFrame => none
  | .checksumMismatch => some .verify

end Sys2Proof.Machine
end

