-- ==== Sys2Proof/Machine/Ops.lean ====
section
/-! DEFINITION. The shared operations: buffer storage, acceptance, the common checks, the completion of a
command with its output or with an error, the ways out of an error, and reset. -/

namespace Sys2Proof.Machine

/-! ## Buffer storage -/

/-- Store a byte at an index, keeping the indexes strictly rising. -/
def Memory.set : Memory → Nat → Byte → Memory
  | [], a, x => [(a, x)]
  | (b, y) :: m, a, x =>
    if a < b then (a, x) :: (b, y) :: m
    else if a = b then (a, x) :: m
    else (b, y) :: Memory.set m a x

/-- The cells that hold a byte sequence from an index on. -/
def Memory.ofBytes : Nat → Bytes → Memory
  | _, [] => []
  | a, x :: B => (a, x) :: Memory.ofBytes (a + 1) B

/-- The canonical form: strictly rising indexes. (An unlisted index reads as no value, which no entry
equals.) -/
def Memory.wf : Memory → Bool
  | [] => true
  | (a, _) :: m => m.all (fun c => decide (a < c.1)) && Memory.wf m

/-- The little-endian value of the n bytes `f i`, ..., `f (i+n-1)` (R77). -/
def readLE (f : Nat → Byte) : Nat → Nat → Word
  | _, 0 => 0
  | i, n + 1 => (f i).setWidth 32 + readLE f (i + 1) n <<< 8

/-- Store the low n bytes of a value at i, ..., i+n-1, least significant first (R77). -/
def writeLE (m : Memory) : Nat → Nat → Word → Memory
  | _, 0, _ => m
  | i, n + 1, v => writeLE (m.set i (v.setWidth 8)) (i + 1) n (v >>> 8)

/-! ## The command lifecycle -/

/-- The state of the sequencer that an accepted word enters (R131): READ_HEADER for a legal UNPACK word,
PRIMITIVE for every other word. -/
def acceptedSeq (v : Word) : SeqState :=
  if v.extractLsb' 0 8 = 0x01 ∧ legal v then .readHeader else .primitive

/-- Acceptance of the word v (R131). The latency of the command is drawn here (R141). -/
def accept (v : Word) (s : State) : State :=
  { s with
    cmd := v, busy := true, done := false, err := false, errcode := 0, cfgsub := 0, outLen := 0
    seq := acceptedSeq v
    latency := Config.latency s.draws, draws := s.draws + 1 }

/-- The state in which the word v has been accepted and its completion is the very next step. -/
def placeCommand (v : Word) (s : State) : State :=
  { accept v s with latency := 0, draws := s.draws, rstN := true }

/-- The execution function of a legal command (R132): the common checks LENGTH_RANGE (R134) and, for a
command that uses the key, KEY_NOT_LOADED (R135), then the command's own function of the operand bytes
and the key bytes. (An illegal word never gets here: R133, `completeIllegal`.) -/
def checked (usesKey : Bool) (body : Bytes → Bytes → CmdOutcome) (s : State) : CmdOutcome :=
  if s.inLen.toNat > s.nBuf then .err .config .lengthRange res0
  else if usesKey && !keyValid s then .err .config .keyNotLoaded res0
  else body (operand s) (keyBytes s)

/-- Completion with success, `complete(out, res)` (R140). The cells of OBUF beyond the output are left
unspecified, so the completion lists none of them. -/
def completeOk (out : Bytes) (r : Results) (s : State) : State :=
  { s with
    obuf := Memory.ofBytes 0 out, outLen := BitVec.ofNat 17 out.length, res := r
    done := true, err := false, errcode := 0, cfgsub := 0
    busy := false, seq := .idle }

/-- Error entry, the block's one way of taking an exception (R265): the completion with an error (R140).
It records the kind, the sub-cause and the result registers the raising rule names, and nothing else
(R262). The content of OBUF is left unspecified and cannot be observed. -/
def raiseError (kind : ErrorKind) (sub : CfgSub) (r : Results) (s : State) : State :=
  { s with
    obuf := [], outLen := 0, res := r
    done := false, err := true, errcode := kind.code, cfgsub := sub.code
    busy := false, seq := .idle }

/-- The completion step: the commit of an outcome (R140). -/
def complete : CmdOutcome → State → State
  | .ok out r, s => completeOk out r s
  | .err kind sub r, s => raiseError kind sub r s

/-- The completion of an illegal command word: ConfigError ILLEGAL_CMD, before every other check (R109,
R133). -/
def completeIllegal (s : State) : State := raiseError .config .illegalCmd res0 s

/-- Error exit by a W1C write (R32, R266): ERR, ERRCODE and CFGSUB are cleared. -/
def clearError (s : State) : State := { s with err := false, errcode := 0, cfgsub := 0 }

/-- A host write that the block drops because it is BUSY: only WR_BUSY changes (R30, R300). -/
def dropWrite (s : State) : State := { s with wrBusy := true }

/-- A host write of something the engine owns while it is BUSY (R27): dropped while BUSY = 1, done
otherwise (R300). -/
def whenIdle (write : State → State) (s : State) : State :=
  if s.busy then dropWrite s else write s

/-! ## Reset -/

/-- `rst_n` goes to 0 (R290): every piece of the block's state takes its value of R53, and stays there
while `rst_n` is 0. The outside world's own events, and the counters of the free values, go on. -/
def holdReset (s : State) : State :=
  { State.resetWith s.nBuf with
    rstN := false, env := s.env, resp := s.resp, draws := s.draws, resets := s.resets + 1 }

/-- `rst_n` goes to 1. -/
def releaseReset (s : State) : State := { s with rstN := true }

end Sys2Proof.Machine
end

