-- ==== Sys2Proof/Machine/Checksum.lean ====
section
/-! DEFINITION. The meanings of the commands on the frame parser and the CRC generator: PARSE
(43_frame_parser.md R203), CRC16 and VERIFY (44_checksum.md R218, R220). -/

namespace Sys2Proof.Machine

/-- ParseExec (R203). It computes no CRC (R202). -/
def parseExec (B : Bytes) : CmdOutcome :=
  match parseFrame B with
  | none => .err .truncatedFrame .none res0
  | some f => .ok [] (res0.withFrame f B)

/-- PARSE (R203). It does not use the key. -/
def execParse (s : State) : Host.Outcome State Fault Refusal :=
  .next (complete (checked false (fun B _ => parseExec B) s) s)

/-- Crc16Exec (R218). -/
def crc16Exec (B : Bytes) : CmdOutcome := .ok [] { res0 with crcc := crc16 B }

/-- CRC16 (R218). It does not use the key. -/
def execCrc16 (s : State) : Host.Outcome State Fault Refusal :=
  .next (complete (checked false (fun B _ => crc16Exec B) s) s)

/-- The Verify step (R219) on a frame of the plaintext P, over the results r so far: the record with the
frame's fields, the computed CRC and the payload length, or that record with ChecksumMismatchError. -/
def verifyFrame (r : Results) (f : Frame) (P out : Bytes) : CmdOutcome :=
  let r := { r.withFrame f P with crcc := crc16 f.data }
  if r.crcc ≠ r.crcs then .err .checksumMismatch .none r else .ok out r

/-- VerifyExec (R220). -/
def verifyExec (B : Bytes) : CmdOutcome :=
  match parseFrame B with
  | none => .err .truncatedFrame .none res0
  | some f => verifyFrame res0 f B []

/-- VERIFY (R220). It does not use the key. -/
def execVerify (s : State) : Host.Outcome State Fault Refusal :=
  .next (complete (checked false (fun B _ => verifyExec B) s) s)

end Sys2Proof.Machine
end

