-- ==== Sys2Proof/Machine/Aes.lean ====
section
/-! DEFINITION. The AES-128 inverse cipher on one block, and ECB mode (42_ecb_codec.md R170-R181). -/

namespace Sys2Proof.Machine.Aes

/-! ## Field arithmetic and tables -/

/-- Multiplication by 0x02 in GF(2^8) modulo 0x11B (R171). -/
def xtime (a : Byte) : Byte := (a <<< 1) ^^^ (if a.getLsbD 7 then 0x1B else 0x00)

/-- The sum of the terms a * x^i of the bits i of b, for the low n bits of b (R171). -/
def gmulBits : Nat → Byte → Byte → Byte
  | 0, _, _ => 0
  | n + 1, a, b => (if b.getLsbD 0 then a else 0) ^^^ gmulBits n (xtime a) (b >>> 1)

/-- `gmul(a, b)`, the product in GF(2^8) (R171). -/
def gmul (a b : Byte) : Byte := gmulBits 8 a b

/-- One row of a table: 16 entries, column 0 in the top byte. -/
abbrev TableRow := BitVec 128

/-- The entry of a table at x: the row is the high nibble of x and the column its low nibble (R172). -/
def lookup (rows : List TableRow) (x : Byte) : Byte :=
  ((rows.getD (x.toNat / 16) 0) >>> (8 * (15 - x.toNat % 16))).setWidth 8

/-- The rows of the S-box, as R172 prints them. -/
def sboxRows : List TableRow :=
  [0x637c777bf26b6fc53001672bfed7ab76,
   0xca82c97dfa5947f0add4a2af9ca472c0,
   0xb7fd9326363ff7cc34a5e5f171d83115,
   0x04c723c31896059a071280e2eb27b275,
   0x09832c1a1b6e5aa0523bd6b329e32f84,
   0x53d100ed20fcb15b6acbbe394a4c58cf,
   0xd0efaafb434d338545f9027f503c9fa8,
   0x51a3408f929d38f5bcb6da2110fff3d2,
   0xcd0c13ec5f974417c4a77e3d645d1973,
   0x60814fdc222a908846eeb814de5e0bdb,
   0xe0323a0a4906245cc2d3ac629195e479,
   0xe7c8376d8dd54ea96c56f4ea657aae08,
   0xba78252e1ca6b4c6e8dd741f4bbd8b8a,
   0x703eb5664803f60e613557b986c11d9e,
   0xe1f8981169d98e949b1e87e9ce5528df,
   0x8ca1890dbfe6426841992d0fb054bb16]

/-- The rows of the inverse S-box, as R172 prints them. -/
def invSboxRows : List TableRow :=
  [0x52096ad53036a538bf40a39e81f3d7fb,
   0x7ce339829b2fff87348e4344c4dee9cb,
   0x547b9432a6c2233dee4c950b42fac34e,
   0x082ea16628d924b2765ba2496d8bd125,
   0x72f8f66486689816d4a45ccc5d65b692,
   0x6c704850fdedb9da5e154657a78d9d84,
   0x90d8ab008cbcd30af7e45805b8b34506,
   0xd02c1e8fca3f0f02c1afbd0301138a6b,
   0x3a9111414f67dcea97f2cfcef0b4e673,
   0x96ac7422e7ad3585e2f937e81c75df6e,
   0x47f11a711d29c5896fb7620eaa18be1b,
   0xfc563e4bc6d279209adbc0fe78cd5af4,
   0x1fdda8338807c731b11210592780ec5f,
   0x60517fa919b54a0d2de57a9f93c99cef,
   0xa0e03b4dae2af5b0c8ebbb3c83539961,
   0x172b047eba77d626e169146355210c7d]

/-- `Sbox` (R172). -/
def sbox (x : Byte) : Byte := lookup sboxRows x

/-- `InvSbox` (R172). -/
def invSbox (x : Byte) : Byte := lookup invSboxRows x

/-- RC[j] for j = 1..10: RC[1] = 0x01 and RC[j] = xtime(RC[j-1]) (R173). -/
def rc : Nat → Byte
  | 0 => 0
  | 1 => 0x01
  | j + 2 => xtime (rc (j + 1))

/-! ## State, key schedule and round functions -/

/-- A 16-byte block. It is also the 4x4 state: `s[r, c]` is the byte at index r + 4c (R174), so loading
and storing a block change nothing. -/
abbrev Block := Bytes

/-- `s[r, c]` (R174). -/
def cell (s : Block) (r c : Nat) : Byte := s.getD (r + 4 * c) 0

/-- The block whose state has `f r c` in row r and column c (R174). -/
def ofCells (f : Nat → Nat → Byte) : Block := (List.range 16).map (fun j => f (j % 4) (j / 4))

/-- The bytewise xor of two byte sequences. -/
def xorBytes (a b : Bytes) : Bytes := List.zipWith (· ^^^ ·) a b

/-- `RotWord(a0, a1, a2, a3) = (a1, a2, a3, a0)` (R175). -/
def rotWord (t : Bytes) : Bytes := t.drop 1 ++ t.take 1

/-- `SubWord` (R175). -/
def subWord (t : Bytes) : Bytes := t.map sbox

/-- `Rcon[j] = (RC[j], 0, 0, 0)` (R173). -/
def rcon (j : Nat) : Bytes := [rc j, 0, 0, 0]

/-- The word w[i], for i the number of words there are already, i at least 4 (R175). -/
def nextWord (w : List Bytes) : Bytes :=
  let t := w.getD (w.length - 1) []
  let t := if w.length % 4 = 0 then xorBytes (subWord (rotWord t)) (rcon (w.length / 4)) else t
  xorBytes (w.getD (w.length - 4) []) t

/-- Append n more words of the key schedule (R175). -/
def expandWords : Nat → List Bytes → List Bytes
  | 0, w => w
  | n + 1, w => expandWords n (w ++ [nextWord w])

/-- The word w[i] of the key itself, i in 0..3 (R175). -/
def keyWord (K : Bytes) (i : Nat) : Bytes :=
  [K.getD (4 * i) 0, K.getD (4 * i + 1) 0, K.getD (4 * i + 2) 0, K.getD (4 * i + 3) 0]

/-- KeyExpansion: the words w[0..44) (R175). -/
def keyExpansion (K : Bytes) : List Bytes :=
  expandWords 40 [keyWord K 0, keyWord K 1, keyWord K 2, keyWord K 3]

/-- `RK_r = w[4r] || w[4r+1] || w[4r+2] || w[4r+3]` (R175). -/
def roundKey (w : List Bytes) (r : Nat) : Block :=
  w.getD (4 * r) [] ++ w.getD (4 * r + 1) [] ++ w.getD (4 * r + 2) [] ++ w.getD (4 * r + 3) []

/-- Row r of the state rotated right by r: `s'[r, (c + r) mod 4] = s[r, c]` (R176). -/
def invShiftRows (s : Block) : Block := ofCells (fun r c => cell s r ((c + 4 - r) % 4))

/-- InvSubBytes (R177). -/
def invSubBytes (s : Block) : Block := s.map invSbox

/-- AddRoundKey (R177). -/
def addRoundKey (s rk : Block) : Block := xorBytes s rk

/-- One column entry of a matrix product: the rows are the coefficients of a_0, a_1, a_2, a_3. -/
def mixCell (s : Block) (c : Nat) (k0 k1 k2 k3 : Byte) : Byte :=
  gmul (cell s 0 c) k0 ^^^ gmul (cell s 1 c) k1 ^^^ gmul (cell s 2 c) k2 ^^^ gmul (cell s 3 c) k3

/-- InvMixColumns (R177). -/
def invMixColumns (s : Block) : Block :=
  ofCells (fun r c =>
    match r with
    | 0 => mixCell s c 0x0e 0x0b 0x0d 0x09
    | 1 => mixCell s c 0x09 0x0e 0x0b 0x0d
    | 2 => mixCell s c 0x0d 0x09 0x0e 0x0b
    | _ => mixCell s c 0x0b 0x0d 0x09 0x0e)

/-! ## One-block decryption -/

/-- The rounds r = n down to 1 of the inverse cipher (R178). -/
def decRounds (w : List Bytes) : Nat → Block → Block
  | 0, s => s
  | r + 1, s =>
    decRounds w r (invMixColumns (addRoundKey (invSubBytes (invShiftRows s)) (roundKey w (r + 1))))

/-- The inverse cipher with an expanded key (R178). -/
def decBlock (w : List Bytes) (C : Block) : Block :=
  addRoundKey (invSubBytes (invShiftRows (decRounds w 9 (addRoundKey C (roundKey w 10))))) (roundKey w 0)

/-- `AesDec(K, C)` (R178). -/
def aesDec (K C : Bytes) : Bytes := decBlock (keyExpansion K) C

/-! ## ECB mode -/

/-- The blocks of a sequence of n blocks, each decrypted by itself (R181). -/
def ecbDecBlocks (K : Bytes) : Nat → Bytes → Bytes
  | 0, _ => []
  | n + 1, B => aesDec K (B.take Config.blockBytes) ++ ecbDecBlocks K n (B.drop Config.blockBytes)

/-- `EcbDec(K, B)` (R181). It is used on lengths that are a positive multiple of 16 only (R180). -/
def ecbDec (K B : Bytes) : Bytes := ecbDecBlocks K (B.length / Config.blockBytes) B

/-- The length check of R180: not a positive multiple of 16. -/
def misaligned (B : Bytes) : Bool := B.length == 0 || B.length % Config.blockBytes != 0

end Sys2Proof.Machine.Aes
end

