-- ==== Sys2Proof/Machine/Cipher.lean ====
section
/-! DEFINITION. The meaning of ECBDEC (42_ecb_codec.md R183). -/

namespace Sys2Proof.Machine

/-- EcbdecExec (R183). -/
def ecbdecExec (B K : Bytes) : CmdOutcome :=
  if Aes.misaligned B then .err .blockAlignment .none res0 else .ok (Aes.ecbDec K B) res0

/-- ECBDEC (R183). It uses the key as loaded, unreversed (R164). -/
def execEcbdec (s : State) : Host.Outcome State Fault Refusal :=
  .next (complete (checked true (fun B K => ecbdecExec B K) s) s)

end Sys2Proof.Machine
end

