-- ==== Sys2Proof/Machine/Pipeline.lean ====
section
/-! DEFINITION. The meaning of UNPACK, the whole pipeline (45_pipeline.md R235-R246). -/

namespace Sys2Proof.Machine

/-- `Decrypt(K, C) = Rev(EcbDec(Rev(K), Rev(C)))`, the triple-reversal decryption (R237). -/
def decrypt (K C : Bytes) : Bytes := rev (Aes.ecbDec (rev K) (rev C))

/-- The output of the StripHeader and Emit states (R245, R246). -/
def emitted (rh : Bool) (P : Bytes) : Bytes := if rh then strip P else P

/-- The Verify, StripHeader and Emit states on the plaintext P (R238): Verify is skipped entirely when
dc = 1 (R244). The truncated frame of the parser cannot occur here (R249). -/
def unpackPlain (dc rh : Bool) (r : Results) (P : Bytes) : CmdOutcome :=
  if dc then .ok (emitted rh P) r
  else
    match parseFrame P with
    | none => .err .truncatedFrame .none r
    | some f => verifyFrame r f P (emitted rh P)

/-- UnpackExec (R238), its states in strict sequence: ReadHeader (R239), VersionGate (R240), the check
and the cipher of Decrypt (R242, R243), and the rest. -/
def unpackExec (dc rh : Bool) (B K : Bytes) : CmdOutcome :=
  if B.length < Config.prefixBytes then .err .shortContainer .none res0
  else
    let r : Results := { res0 with fmt := u16le B 0 }
    if dc = false ∧ r.fmt ≠ Config.supportedFmt then .err .unsupportedVersion .none r
    else
      let C := B.drop Config.prefixBytes
      if Aes.misaligned C then .err .blockAlignment .none r
      else unpackPlain dc rh r (decrypt K C)

/-- UNPACK (R238). It uses the key, reversed by the block (R243). -/
def execUnpack (dc rh : Bool) (s : State) : Host.Outcome State Fault Refusal :=
  .next (complete (checked true (fun B K => unpackExec dc rh B K) s) s)

end Sys2Proof.Machine
end

