-- ==== Sys2Proof/Machine/Reversal.lean ====
section
/-! DEFINITION. The meanings of the commands on the reversal network and the header strip: REVERSE
(41_byte_reverser.md R162) and STRIP (45_pipeline.md R248). A meaning is the completion step of the
accepted command (40_command_common.md R140): its outcome, committed. -/

namespace Sys2Proof.Machine

/-- ReverseExec (R162). -/
def reverseExec (B : Bytes) : CmdOutcome := .ok (rev B) res0

/-- REVERSE (R162). It does not use the key. -/
def execReverse (s : State) : Host.Outcome State Fault Refusal :=
  .next (complete (checked false (fun B _ => reverseExec B) s) s)

/-- StripExec (R248). -/
def stripExec (B : Bytes) : CmdOutcome :=
  if B.length < Config.hdrBytes then .err .truncatedFrame .none res0 else .ok (strip B) res0

/-- STRIP (R248). It does not use the key. -/
def execStrip (s : State) : Host.Outcome State Fault Refusal :=
  .next (complete (checked false (fun B _ => stripExec B) s) s)

end Sys2Proof.Machine
end

