-- ==== Sys2Proof/Machine/Dispatch.lean ====
section
/-! DEFINITION. One meaning per command: what the completion step of the accepted command does
(40_command_common.md R132, R140). -/

namespace Sys2Proof.Machine

/-- The completion of the command i. `step` calls it when the engine has its turn, which it has only while
a command is accepted (R140). -/
def exec (i : Instr) (s : State) : Host.Outcome State Fault Refusal :=
  match i with
  | .unpack dc rh => Sys2Proof.Machine.execUnpack dc rh s
  | .reverse => Sys2Proof.Machine.execReverse s
  | .ecbdec => Sys2Proof.Machine.execEcbdec s
  | .parse => Sys2Proof.Machine.execParse s
  | .verify => Sys2Proof.Machine.execVerify s
  | .crc16 => Sys2Proof.Machine.execCrc16 s
  | .strip => Sys2Proof.Machine.execStrip s

end Sys2Proof.Machine
end

