-- ==== Sys2Proof/Machine/Registers.lean ====
section
/-! DEFINITION. The register page (10_state.md R21-R45): offsets, reads and writes. -/

namespace Sys2Proof.Machine

/-- The register at an offset of the register page; none for an offset that R21 does not list. -/
def Reg.ofOffset (a : Nat) : Option Reg :=
  match a with
  | 0x000 => some .id
  | 0x004 => some .bufsz
  | 0x008 => some .ctrl
  | 0x00C => some .status
  | 0x010 => some .cmd
  | 0x014 => some .inLen
  | 0x018 => some .outLen
  | 0x020 => some .fmtVer
  | 0x024 => some .fwVer
  | 0x028 => some .dataSize
  | 0x02C => some .crcStored
  | 0x030 => some .crcCalc
  | 0x034 => some .dataLen
  | 0x040 => some .key0
  | 0x044 => some .key1
  | 0x048 => some .key2
  | 0x04C => some .key3
  | _ => none

/-- The offset `off(REG)` of a register (R21, R111). -/
def Reg.offset : Reg → Nat
  | .id => 0x000
  | .bufsz => 0x004
  | .ctrl => 0x008
  | .status => 0x00C
  | .cmd => 0x010
  | .inLen => 0x014
  | .outLen => 0x018
  | .fmtVer => 0x020
  | .fwVer => 0x024
  | .dataSize => 0x028
  | .crcStored => 0x02C
  | .crcCalc => 0x030
  | .dataLen => 0x034
  | .key0 => 0x040
  | .key1 => 0x044
  | .key2 => 0x048
  | .key3 => 0x04C

/-- The six result registers, which read an unspecified value while BUSY = 1 (R42). -/
def Reg.isResult : Reg → Bool
  | .fmtVer | .fwVer | .dataSize | .crcStored | .crcCalc | .dataLen => true
  | .id | .bufsz | .ctrl | .status | .cmd | .inLen | .outLen | .key0 | .key1 | .key2 | .key3 => false

/-- The value a register holds as software sees it while no draw is due (R22-R41). KEY0-KEY3 read 0
(R45), CTRL.KEY_CLR reads 0 (R24), and reserved bits read 0 (R54). -/
def regValue (s : State) : Reg → Word
  | .id => 0x41544F51
  | .bufsz => (BitVec.ofNat 17 s.nBuf).setWidth 32
  | .ctrl => (BitVec.ofBool s.ie).setWidth 32
  | .status => statusWord s
  | .cmd => s.cmd
  | .inLen => s.inLen
  | .outLen => s.outLen.setWidth 32
  | .fmtVer => s.res.fmt.setWidth 32
  | .fwVer => s.res.fwv.setWidth 32
  | .dataSize => s.res.dsz.setWidth 32
  | .crcStored => s.res.crcs.setWidth 32
  | .crcCalc => s.res.crcc.setWidth 32
  | .dataLen => s.res.dlen.setWidth 32
  | .key0 => 0
  | .key1 => 0
  | .key2 => 0
  | .key3 => 0

/-- A read of a register: its value, or a fresh draw for a result register while BUSY = 1 (R42). Nothing
but the count of draws changes (R82). -/
def readReg (r : Reg) (s : State) : Word × State :=
  if s.busy && r.isResult then (Config.busyResult s.draws, { s with draws := s.draws + 1 })
  else (regValue s r, s)

/-- The key clear of CTRL.KEY_CLR (R24). -/
def clearKey (s : State) : State := { s with key0 := 0, key1 := 0, key2 := 0, key3 := 0, kw := 0 }

/-- A write of CTRL: IE always takes v[0], and v[1] = 1 clears the key, unless BUSY (R25). -/
def writeCtrl (v : Word) (s : State) : State :=
  let s := { s with ie := v.getLsbD 0 }
  if v.getLsbD 1 then whenIdle clearKey s else s

/-- A write of STATUS: the three W1C bits, allowed while BUSY too (R32). -/
def writeStatus (v : Word) (s : State) : State :=
  let s := if v.getLsbD 1 then { s with done := false } else s
  let s := if v.getLsbD 2 then clearError s else s
  if v.getLsbD 4 then { s with wrBusy := false } else s

/-- A write of a register (R22-R45, R83). Read-only registers ignore it, BUSY or not (R300). -/
def writeReg (r : Reg) (v : Word) (s : State) : State :=
  match r with
  | .ctrl => writeCtrl v s
  | .status => writeStatus v s
  | .cmd => whenIdle (accept v) s
  | .inLen => whenIdle (fun s => { s with inLen := v }) s
  | .key0 => whenIdle (fun s => { s with key0 := v, kw := s.kw ||| 1#4 }) s
  | .key1 => whenIdle (fun s => { s with key1 := v, kw := s.kw ||| 2#4 }) s
  | .key2 => whenIdle (fun s => { s with key2 := v, kw := s.kw ||| 4#4 }) s
  | .key3 => whenIdle (fun s => { s with key3 := v, kw := s.kw ||| 8#4 }) s
  | .id | .bufsz | .outLen => s
  | .fmtVer | .fwVer | .dataSize | .crcStored | .crcCalc | .dataLen => s

end Sys2Proof.Machine
end

