-- ==== Sys2Proof/Machine/Port.lean ====
section
/-! DEFINITION. The bus slave port (20_memory.md R70-R84): which part of the aperture an access reaches,
what it does there, and when it is a bus error. -/

namespace Sys2Proof.Machine

/-- What a legal access reaches: a register, or the buffer bytes from an index on (R72, R73). -/
inductive Target where
  | reg (r : Reg)
  | ibuf (i : Nat)
  | obuf (i : Nat)
deriving DecidableEq, Repr

/-- The offset inside the aperture that a transaction reaches, none outside it (R70, R75). -/
def apertureOffset : BusAddr → Option Nat
  | .offset a => if a < Config.apertureBytes then some a else none
  | .bus A =>
    if Config.base ≤ A ∧ A < Config.base + Config.apertureBytes then some (A - Config.base) else none

/-- The target of an access of n bytes at offset a, none for a bus error: the register page takes aligned
4-byte accesses at listed offsets (R74), the windows take naturally aligned accesses inside the mapped
part (R73, R76), and everything else is unmapped (R72). -/
def accessTarget (nBuf : Nat) (n : Width) (a : Nat) : Option Target :=
  if a < 0x100 then
    if n.bytes = 4 ∧ a % 4 = 0 then (Reg.ofOffset a).map .reg else none
  else if a % n.bytes ≠ 0 then none
  else if 0x10000 ≤ a ∧ a + n.bytes ≤ 0x10000 + nBuf then some (.ibuf (a - 0x10000))
  else if 0x20000 ≤ a ∧ a + n.bytes ≤ 0x20000 + nBuf then some (.obuf (a - 0x20000))
  else none

/-- The target of an access to a bus address, if it is a legal one. -/
def resolve (s : State) (n : Width) (addr : BusAddr) : Option Target :=
  (apertureOffset addr).bind (accessTarget s.nBuf n)

/-- A legal read of n bytes (R77, R82). Reads are never dropped (R300). -/
def readTarget (n : Width) (t : Target) (s : State) : Word × State :=
  match t with
  | .reg r => readReg r s
  | .ibuf i => (readLE (ibufByte s) i n.bytes, s)
  | .obuf i => (readLE (obufRead s) i n.bytes, s)

/-- A legal write of n bytes (R77, R83). IBUF writes are dropped while BUSY (R300), OBUF writes are
ignored always (R47). -/
def writeTarget (n : Width) (t : Target) (v : Word) (s : State) : State :=
  match t with
  | .reg r => writeReg r v s
  | .ibuf i => whenIdle (fun s => { s with ibuf := writeLE s.ibuf i n.bytes v }) s
  | .obuf _ => s

/-- The port's answer to one transaction and the state after it. A bus error changes no state (R75). -/
def portAccess (t : Txn) (s : State) : BusResponse × State :=
  match t with
  | .read addr n =>
    match resolve s n addr with
    | some tgt => (.data (readTarget n tgt s).1, (readTarget n tgt s).2)
    | none => (.busError, s)
  | .write addr n v =>
    match resolve s n addr with
    | some tgt => (.ok, writeTarget n tgt v s)
    | none => (.busError, s)

/-- The bus error a transaction stands for (R75). -/
def Txn.busFault : Txn → Fault
  | .read addr n => .busError addr n .read
  | .write addr n _ => .busError addr n .write

/-- One transaction of the host, as a step of the machine: the response appears on the port; a bus error
is a fault of the host program (R75). While `rst_n` = 0 the transaction has no effect and its response
is free (R290). -/
def transact (t : Txn) (s : State) : Host.Outcome State Fault Refusal :=
  if s.rstN then
    match portAccess t s with
    | (.busError, _) => .fault t.busFault
    | (r, s') => .next { s' with resp := some r }
  else .next { s with resp := some (Config.heldResponse s.draws), draws := s.draws + 1 }

end Sys2Proof.Machine
end

