-- ==== Sys2Proof/Machine/HostAgent.lean ====
section
/-! DEFINITION. The host and the reset input as the outside world of the block (00_scope.md R18), whose
turn it is (20_memory.md R84), and the host script notation (30_encoding.md R111, R112). -/

namespace Sys2Proof.Machine

/-- `wr REG, v` (R111). -/
def Script.wr (r : Reg) (v : Word) : EnvEvent := .access (.write (.offset r.offset) .word v)

/-- `rd REG` (R111). -/
def Script.rd (r : Reg) : EnvEvent := .access (.read (.offset r.offset) .word)

/-- `wr8 IBUF+i, b` (R111). -/
def Script.wr8 (i : Nat) (b : Byte) : EnvEvent :=
  .access (.write (.offset (0x10000 + i)) .byte (b.setWidth 32))

/-- `wr16 IBUF+i, h` (R111). -/
def Script.wr16 (i : Nat) (h : Half) : EnvEvent :=
  .access (.write (.offset (0x10000 + i)) .half (h.setWidth 32))

/-- `wr32 IBUF+i, w` (R111). -/
def Script.wr32 (i : Nat) (w : Word) : EnvEvent := .access (.write (.offset (0x10000 + i)) .word w)

/-- `rd8`, `rd16` and `rd32` of OBUF+i (R111). -/
def Script.rdObuf (n : Width) (i : Nat) : EnvEvent := .access (.read (.offset (0x20000 + i)) n)

/-- A command's pseudo-instruction: the write of its word to CMD (R112). -/
def Script.command (i : Instr) : EnvEvent := Script.wr .cmd (encode i)

/-- The register word whose bytes are the four bytes of B from index o on, least significant first
(R43). -/
def bytesWord (B : Bytes) (o : Nat) : Word :=
  B.getD (o + 3) 0 ++ B.getD (o + 2) 0 ++ B.getD (o + 1) 0 ++ B.getD o 0

/-- `key b0 ... b15` (R112). -/
def Script.key (K : Bytes) : List EnvEvent :=
  [Script.wr .key0 (bytesWord K 0), Script.wr .key1 (bytesWord K 4),
   Script.wr .key2 (bytesWord K 8), Script.wr .key3 (bytesWord K 12)]

/-- `len n` (R112). -/
def Script.len (n : Nat) : EnvEvent := Script.wr .inLen (BitVec.ofNat 32 n)

/-- `load b0 ... b(m-1)` (R112): one byte write each, then `len m`. -/
def Script.load (B : Bytes) : List EnvEvent :=
  (List.range B.length).map (fun i => Script.wr8 i (B.getD i 0)) ++ [Script.len B.length]

/-- The value that a response carries; a response without data carries none, read here as 0. -/
def responseWord : Option BusResponse → Word
  | some (.data v) => v
  | some .ok => 0
  | some .busError => 0
  | none => 0

/-- One event of the outside world, taken out of `env` already. `wait` reads STATUS and stays pending
while the value read has bit 0 set; `readout` reads OUT_LEN and goes on as the byte reads (R112). -/
def envStep (e : EnvEvent) (s : State) : Host.Outcome State Fault Refusal :=
  match e with
  | .access t => transact t s
  | .wait =>
    match transact (.read (.offset Reg.status.offset) .word) s with
    | .next s' =>
      .next (if (responseWord s'.resp).getLsbD 0 then { s' with env := .wait :: s'.env } else s')
    | .fault f => .fault f
    | .refused r => .refused r
  | .readout =>
    match transact (.read (.offset Reg.outLen.offset) .word) s with
    | .next s' =>
      .next { s' with
        env := (List.range (responseWord s'.resp).toNat).map (Script.rdObuf .byte) ++ s'.env }
    | .fault f => .fault f
    | .refused r => .refused r
  | .rstLow => .next (holdReset s)
  | .rstHigh => .next (releaseReset s)

/-- Who moves next. -/
inductive Turn where
  /-- The engine completes the accepted command. -/
  | engine
  /-- The outside world does its oldest event. -/
  | env (e : EnvEvent) (rest : List EnvEvent)
  /-- Nothing is enabled. -/
  | idle
deriving DecidableEq, Repr

/-- Whose turn it is (R84, R140, R141, R306). The engine has a step exactly when BUSY = 1 and `rst_n` = 1;
it takes it once the events that the latency lets through are done, or when no event is left. -/
def turn (s : State) : Turn :=
  match s.env with
  | [] => if s.rstN && s.busy then .engine else .idle
  | e :: rest => if s.rstN && s.busy && s.latency == 0 then .engine else .env e rest

/-- The state in which an event is done: it is pending no more, and one event of the latency is used up. -/
def takeEvent (rest : List EnvEvent) (s : State) : State :=
  { s with env := rest, latency := s.latency - 1 }

end Sys2Proof.Machine
end

