-- ==== Sys2Proof/Machine/Step.lean ====
section
/-! DEFINITION. One step of the machine: one event in the single order of host transactions and engine
completions (20_memory.md R84). -/

namespace Sys2Proof.Machine

/-- One step. On its turn the engine completes the word in CMD: the command it decodes to, or the error
of an illegal word (R133, R140). Else the outside world does its oldest event; where nothing is enabled,
the block idles (R140, R278). -/
def step (s : State) : Host.Outcome State Fault Refusal :=
  match turn s with
  | .engine =>
    match decode s.cmd with
    | .ok i => exec i s
    | .error _ => .next (completeIllegal s)
  | .env e rest => envStep e (takeEvent rest s)
  | .idle => .next s

/-- The state in which the word w has been accepted and the very next step completes it. A command comes
to run by a write to CMD (R33, R131): this stands for that write, with latency 0 (assumption 8). -/
def State.withFetchWord (s : State) (nbits w : Nat) : State :=
  placeCommand (BitVec.ofNat 32 (w % 2 ^ nbits)) s

end Sys2Proof.Machine
end

