-- ==== Sys2Proof/Machine/AesReference.lean ====
section
/-! DEFINITION. The reference forward cipher of 42_ecb_codec.md R179 and the encryption of 45_pipeline.md
R251. The block has no encryption path: no step uses these, they are for stating properties. -/

namespace Sys2Proof.Machine.Aes

/-- SubBytes (R179). -/
def subBytes (s : Block) : Block := s.map sbox

/-- Row r of the state rotated left by r: `s'[r, c] = s[r, (c + r) mod 4]` (R179). -/
def shiftRows (s : Block) : Block := ofCells (fun r c => cell s r ((c + r) % 4))

/-- MixColumns, with the matrix rows (02 03 01 01), (01 02 03 01), (01 01 02 03), (03 01 01 02) (R179). -/
def mixColumns (s : Block) : Block :=
  ofCells (fun r c =>
    match r with
    | 0 => mixCell s c 0x02 0x03 0x01 0x01
    | 1 => mixCell s c 0x01 0x02 0x03 0x01
    | 2 => mixCell s c 0x01 0x01 0x02 0x03
    | _ => mixCell s c 0x03 0x01 0x01 0x02)

/-- The rounds r = 1..n of the forward cipher, the key addition of round 0 included (R179). -/
def encRounds (w : List Bytes) (P : Block) : Nat → Block
  | 0 => addRoundKey P (roundKey w 0)
  | r + 1 => addRoundKey (mixColumns (shiftRows (subBytes (encRounds w P r)))) (roundKey w (r + 1))

/-- The forward cipher with an expanded key (R179). -/
def encBlock (w : List Bytes) (P : Block) : Block :=
  addRoundKey (shiftRows (subBytes (encRounds w P 9))) (roundKey w 10)

/-- `AesEnc(K, P)` (R179). -/
def aesEnc (K P : Bytes) : Bytes := encBlock (keyExpansion K) P

/-- The blocks of a sequence of n blocks, each encrypted by itself (R251). -/
def ecbEncBlocks (K : Bytes) : Nat → Bytes → Bytes
  | 0, _ => []
  | n + 1, B => aesEnc K (B.take Config.blockBytes) ++ ecbEncBlocks K n (B.drop Config.blockBytes)

/-- EcbEnc (R251). -/
def ecbEnc (K B : Bytes) : Bytes := ecbEncBlocks K (B.length / Config.blockBytes) B

/-- `Enc(K, P) = Rev(EcbEnc(Rev(K), Rev(P)))` (R251). -/
def encrypt (K P : Bytes) : Bytes := rev (ecbEnc (rev K) (rev P))

/-- The product a^2 * a^4 * ... * a^(2^n), each factor the square of the one before. -/
def squaresProduct : Nat → Byte → Byte
  | 0, _ => 1
  | n + 1, a => gmul (gmul a a) (squaresProduct n (gmul a a))

/-- `inv(a)`, the multiplicative inverse of a, and inv(0) = 0 (R171), computed as a^254. -/
def inv (a : Byte) : Byte := squaresProduct 7 a

/-- The affine map A of R172, bit by bit, with c = 0x63. -/
def affine (b : Byte) : Byte :=
  BitVec.ofFnLE (fun i : Fin 8 =>
    b.getLsbD i ^^ b.getLsbD ((i + 4) % 8) ^^ b.getLsbD ((i + 5) % 8) ^^ b.getLsbD ((i + 6) % 8) ^^
      b.getLsbD ((i + 7) % 8) ^^ (0x63#8).getLsbD i)

end Sys2Proof.Machine.Aes
end

