-- ==== Sys2Proof/Safety.lean ====
section
/-! DEFINITION. The invariants of the block (10_state.md R55), and the words in which statements speak of a
completed command: how it ended, what the host reads of its output, and what it leaves alone. -/

namespace Sys2Proof.Machine

/-- Every cell a buffer lists lies inside the buffer. -/
def Memory.inside (n : Nat) (m : Memory) : Bool := m.all (fun c => decide (c.1 < n))

/-- The state s with the block in its reset state and `rst_n` at 0 (R290): of s only N_BUF, the pending
events, the port and the counters are left. -/
def State.heldInReset (s : State) : State :=
  { State.resetWith s.nBuf with
    rstN := false, env := s.env, resp := s.resp, draws := s.draws, resets := s.resets }

/-- What holds in every reachable state: R55, with the legal value of N_BUF (R8), the class of `seq`
(R50), the codes that are never produced (R260, R261), no output after an error (R252), the canonical
form of the buffers, and the block held in its reset state while `rst_n` is 0 (R290). KEY_VALID has no storage, so
R55(5) holds by its definition. -/
structure State.Inv (s : State) : Prop where
  nBuf_legal : nBufLegal s.nBuf = true
  busy_clean : s.busy = true → s.done = false ∧ s.err = false ∧ s.outLen = 0
  done_or_err : ¬(s.done = true ∧ s.err = true)
  err_iff_code : s.err = false ↔ s.errcode = 0
  sub_is_config : s.cfgsub ≠ 0 → s.errcode = 1
  codes_produced : s.errcode ≤ 6 ∧ s.cfgsub ≤ 3
  outLen_fits : s.outLen.toNat ≤ s.nBuf
  err_no_output : s.err = true → s.outLen = 0
  seq_class : s.seq = .idle ↔ s.busy = false
  ibuf_wf : s.ibuf.wf = true
  obuf_wf : s.obuf.wf = true
  ibuf_inside : s.ibuf.inside s.nBuf = true
  obuf_inside : s.obuf.inside s.nBuf = true
  output_stored : ∀ i, i < s.outLen.toNat → (s.obuf.get? i).isSome = true
  held_in_reset : s.rstN = false → s.heldInReset = s

/-- The completion is the next step: a command is running, `rst_n` is 1, and no event of the outside world
comes before it (R140, R141). -/
def State.EngineMoves (s : State) : Prop :=
  s.rstN = true ∧ s.busy = true ∧ (s.env = [] ∨ s.latency = 0)

/-- The event e is the next step: it is the oldest one, and no completion comes before it (R84). -/
def State.HostMoves (s : State) (e : EnvEvent) (rest : List EnvEvent) : Prop :=
  s.env = e :: rest ∧ (s.rstN = false ∨ s.busy = false ∨ s.latency ≠ 0)

/-- The state s after one event, of which `rest` are still to come and to which the port answered `r`. -/
def State.afterEvent (s : State) (rest : List EnvEvent) (r : BusResponse) : State :=
  { s with env := rest, latency := s.latency - 1, resp := some r }

/-- The command ended in DONE (R28, R140). -/
def Succeeded (t : State) : Prop :=
  t.busy = false ∧ t.done = true ∧ t.err = false ∧ t.errcode = 0 ∧ t.cfgsub = 0 ∧ t.seq = .idle

/-- The host reads no byte of output: OUT_LEN is 0 and every OBUF cell reads 0 (R47, R252). -/
def NoOutput (t : State) : Prop := t.outLen = 0 ∧ ∀ i, obufRead t i = 0

/-- The command ended in ERR with these codes, and with no output (R140, R252). -/
def Failed (code : BitVec 4) (sub : BitVec 3) (t : State) : Prop :=
  t.busy = false ∧ t.done = false ∧ t.err = true ∧ t.errcode = code ∧ t.cfgsub = sub ∧ t.seq = .idle ∧
    NoOutput t

/-- The output is exactly the sequence B: OUT_LEN counts its bytes, OBUF reads them, and every cell beyond
reads 0 (R47, R140). -/
def OutputIs (B : Bytes) (t : State) : Prop :=
  t.outLen.toNat = B.length ∧ ∀ i, obufRead t i = B.getD i 0

/-- A command's completion leaves alone everything R139 names and every other piece of state that is not
its result: t differs from s in OBUF, OUT_LEN, the result registers, `seq` and the STATUS bits BUSY,
DONE, ERR, ERRCODE and CFGSUB at most. -/
def CommandFrame (s t : State) : Prop :=
  t.nBuf = s.nBuf ∧ t.ie = s.ie ∧ t.wrBusy = s.wrBusy ∧ t.cmd = s.cmd ∧ t.inLen = s.inLen ∧
    t.key0 = s.key0 ∧ t.key1 = s.key1 ∧ t.key2 = s.key2 ∧ t.key3 = s.key3 ∧ t.kw = s.kw ∧
    t.rstN = s.rstN ∧ t.env = s.env ∧ t.resp = s.resp ∧ t.latency = s.latency ∧
    t.draws = s.draws ∧ t.resets = s.resets ∧ ∀ i, ibufByte t i = ibufByte s i

/-- What a running command reads: CMD, IN_LEN, KEY, KW and IBUF, with N_BUF (R86). -/
def SameOperands (s t : State) : Prop :=
  t.nBuf = s.nBuf ∧ t.cmd = s.cmd ∧ t.inLen = s.inLen ∧ keyBytes t = keyBytes s ∧ t.kw = s.kw ∧
    ∀ i, ibufByte t i = ibufByte s i

/-- The payload bytes IBUF[16..IN_LEN) of a plaintext operand (R200). -/
def payload (s : State) : Bytes :=
  (List.range (s.inLen.toNat - 16)).map (fun i => ibufByte s (16 + i))

/-- The ciphertext IBUF[2..IN_LEN) of a container operand (R235). -/
def ciphertext (s : State) : Bytes :=
  (List.range (s.inLen.toNat - 2)).map (fun i => ibufByte s (2 + i))

/-- The 16-bit number of two bytes, low byte first (R12). -/
def u16Nat (lo hi : Byte) : Nat := lo.toNat + 256 * hi.toNat

end Sys2Proof.Machine
end

