-- ==== Sys2Proof/Certificates/Slice0/Obligations.lean ====
section
/-! DEFINITION. The statements about the QOTA unpack engine that are left to be proved. -/

open Sys2Proof Sys2Proof.Machine

/-! ## The command word -/

/-- R107: the ten legal words decode to their commands, and every other word is illegal. -/
def Obligations.TenWordsAreLegalAndNoOther : Prop :=
  decode 0x00000001 = .ok (.unpack false false) ∧ decode 0x00000101 = .ok (.unpack true false) ∧
  decode 0x00000201 = .ok (.unpack false true) ∧ decode 0x00000301 = .ok (.unpack true true) ∧
  decode 0x00000002 = .ok .reverse ∧ decode 0x00000003 = .ok .ecbdec ∧
  decode 0x00000004 = .ok .parse ∧ decode 0x00000005 = .ok .verify ∧
  decode 0x00000006 = .ok .crc16 ∧ decode 0x00000007 = .ok .strip ∧
  ∀ v : Word,
    v ∉ [0x00000001, 0x00000101, 0x00000201, 0x00000301, 0x00000002, 0x00000003, 0x00000004,
         0x00000005, 0x00000006, 0x00000007] →
    legal v = false ∧ ∃ e, decode v = .error e

/-- R105: the legality predicate by the arithmetic of the fields, and the words the decoder accepts. -/
def Obligations.LegalityIsTheFieldPredicate : Prop :=
  ∀ v : Word,
    (legal v = true ↔
      v.toNat / 1024 = 0 ∧ (1 ≤ v.toNat % 256 ∧ v.toNat % 256 ≤ 7) ∧
        (v.toNat % 256 = 1 ∨ v.toNat / 256 % 4 = 0)) ∧
    (legal v = true ↔ ∃ i, decode v = .ok i)

/-- Decoding and encoding agree in both directions, for every word and every command. -/
def Obligations.DecodeInvertsEncode : Prop :=
  ∀ (v : Word) (i : Instr), decode v = .ok i ↔ v = encode i

/-- A few words written out from the fields of R100, OP in bits [7:0], DC bit 8, RH bit 9. -/
def Obligations.SampleWordsDecode : Prop :=
  decode 0b00000000000000000000000100000001 = .ok (.unpack true false) ∧
  decode 0b00000000000000000000001000000001 = .ok (.unpack false true) ∧
  decode 0b00000000000000000000000000000010 = .ok .reverse ∧
  decode 0b00000000000000000000000100000010 = .error .flagsNotAllowed ∧
  decode 0b00000000000000000000010000000001 = .error .reservedBits ∧
  decode 0b00000000000000000000000000001000 = .error .illegalOp

/-! ## The step and the command lifecycle -/

/-- A step runs the decoded command: with the engine to move, the step is the completion of the command
that CMD decodes to, and nothing around it. (When the engine is to move is the model's scheduling,
assumption 4.) -/
def Obligations.StepRunsTheDecodedCommand : Prop :=
  ∀ (s : State) (i : Instr), s.EngineMoves → decode s.cmd = .ok i → i.wellFormed = true →
    step s = exec i s

/-- R131: what an accepted CMD write does; a CMD write while BUSY = 1 is no acceptance. -/
def Obligations.AcceptanceStartsTheCommand : Prop :=
  (∀ (s : State) (v : Word) (rest : List EnvEvent),
    s.rstN = true → s.busy = false → s.HostMoves (Script.wr .cmd v) rest →
    ∃ t, step s = .next t ∧ t.cmd = v ∧ t.busy = true ∧ t.done = false ∧ t.err = false ∧
      t.errcode = 0 ∧ t.cfgsub = 0 ∧ t.outLen = 0 ∧
      t.seq = (if v.toNat % 256 = 1 ∧ legal v = true then .readHeader else .primitive) ∧
      t.wrBusy = s.wrBusy ∧ t.ie = s.ie ∧ keyBytes t = keyBytes s ∧ t.kw = s.kw ∧
      t.inLen = s.inLen ∧ t.nBuf = s.nBuf ∧ t.rstN = true ∧ t.env = rest ∧ t.resp = some .ok ∧
      ∀ i, ibufByte t i = ibufByte s i) ∧
  (∀ (s : State) (v : Word) (rest : List EnvEvent),
    s.rstN = true → s.busy = true → s.HostMoves (Script.wr .cmd v) rest →
    step s = .next { s.afterEvent rest .ok with wrBusy := true })

/-- R133: an illegal command word ends in ConfigError ILLEGAL_CMD, whatever else holds. -/
def Obligations.IllegalWordEndsInIllegalCmd : Prop :=
  ∀ s : State, s.EngineMoves → legal s.cmd = false →
    ∃ t, step s = .next t ∧ Failed 1 1 t ∧ t.res = res0 ∧ CommandFrame s t

/-- R134: IN_LEN > N_BUF ends every legal command in ConfigError LENGTH_RANGE, before the key check. -/
def Obligations.LongOperandEndsInLengthRange : Prop :=
  ∀ (i : Instr) (s : State), s.nBuf < s.inLen.toNat →
    ∃ t, exec i s = .next t ∧ Failed 1 3 t ∧ t.res = res0 ∧ CommandFrame s t

/-- R135: without a key UNPACK and ECBDEC end in ConfigError KEY_NOT_LOADED, and no other command ever
does. -/
def Obligations.MissingKeyEndsInKeyNotLoaded : Prop :=
  (∀ (i : Instr) (s : State), (i = .ecbdec ∨ ∃ dc rh, i = .unpack dc rh) →
    s.inLen.toNat ≤ s.nBuf → s.kw ≠ 0b1111 →
    ∃ t, exec i s = .next t ∧ Failed 1 2 t ∧ t.res = res0 ∧ CommandFrame s t) ∧
  (∀ (i : Instr) (s t : State), (i ≠ .ecbdec ∧ ∀ dc rh, i ≠ .unpack dc rh) →
    exec i s = .next t → t.cfgsub ≠ 2)

/-- R139, R19: every command completes, with exactly one of DONE and ERR, and with no effect beyond the
results of its completion. -/
def Obligations.CompletionOwnsOnlyItsResults : Prop :=
  ∀ (i : Instr) (s : State),
    ∃ t, exec i s = .next t ∧ CommandFrame s t ∧ t.busy = false ∧ t.seq = .idle ∧
      t.done = !t.err ∧ irq t = s.ie

/-- R137: every command has one outcome, and it depends only on the command, N_BUF, IN_LEN, the operand
bytes and, for a command that uses the key, the key bytes and KEY_VALID. -/
def Obligations.OutcomeIsAFunctionOfTheOperands : Prop :=
  ∀ (i : Instr) (s s' : State),
    s.nBuf = s'.nBuf → s.inLen = s'.inLen →
    ((i = .ecbdec ∨ ∃ dc rh, i = .unpack dc rh) →
      keyBytes s = keyBytes s' ∧ keyValid s = keyValid s') →
    (∀ k, k < s.inLen.toNat → ibufByte s k = ibufByte s' k) →
    ∃ t t', exec i s = .next t ∧ exec i s' = .next t' ∧
      t.outLen = t'.outLen ∧ (∀ k, obufRead t k = obufRead t' k) ∧ t.res = t'.res ∧
      t.done = t'.done ∧ t.err = t'.err ∧ t.errcode = t'.errcode ∧ t.cfgsub = t'.cfgsub

/-- R138: every output fits OBUF and is no longer than the operand, with the length of each command's
output. -/
def Obligations.OutputFitsOBUF : Prop :=
  ∀ (i : Instr) (s t : State), nBufLegal s.nBuf = true → exec i s = .next t →
    t.outLen.toNat ≤ s.inLen.toNat ∧ t.outLen.toNat ≤ s.nBuf ∧
    (t.done = true →
      s.inLen.toNat ≤ s.nBuf ∧
      t.outLen.toNat =
        match i with
        | .reverse | .ecbdec => s.inLen.toNat
        | .unpack _ rh => if rh then s.inLen.toNat - 2 - 16 else s.inLen.toNat - 2
        | .strip => s.inLen.toNat - 16
        | .parse | .verify | .crc16 => 0)

/-- R252, R140: after an error, of whatever command, the host reads no byte of output. -/
def Obligations.FailedCommandsShowNoOutput : Prop :=
  ∀ (i : Instr) (s t : State), exec i s = .next t → t.err = true → NoOutput t ∧ regValue t .outLen = 0

/-! ## The primitive commands -/

/-- R162: REVERSE outputs the operand in reverse order, whatever the key; its one error here is
LENGTH_RANGE. -/
def Obligations.ReverseOutputsTheReversedOperand : Prop :=
  ∀ s : State, nBufLegal s.nBuf = true →
    ∃ t, exec .reverse s = .next t ∧ CommandFrame s t ∧ t.res = res0 ∧
      (if s.inLen.toNat ≤ s.nBuf then
        Succeeded t ∧ t.outLen.toNat = s.inLen.toNat ∧
        (∀ i, i < s.inLen.toNat → obufRead t i = ibufByte s (s.inLen.toNat - 1 - i)) ∧
        (∀ i, s.inLen.toNat ≤ i → obufRead t i = 0)
       else Failed 1 3 t)

/-- R248: STRIP outputs the operand from its byte 16 on; a shorter operand is a TruncatedFrameError. -/
def Obligations.StripDropsSixteenBytes : Prop :=
  ∀ s : State, nBufLegal s.nBuf = true →
    ∃ t, exec .strip s = .next t ∧ CommandFrame s t ∧ t.res = res0 ∧
      (if s.nBuf < s.inLen.toNat then Failed 1 3 t
       else if s.inLen.toNat < 16 then Failed 4 0 t
       else
        Succeeded t ∧ t.outLen.toNat = s.inLen.toNat - 16 ∧
        (∀ i, i < s.inLen.toNat - 16 → obufRead t i = ibufByte s (16 + i)) ∧
        (∀ i, s.inLen.toNat - 16 ≤ i → obufRead t i = 0))

/-- R203: PARSE on at least 16 bytes gives the three little-endian header fields and the payload length,
checks none of them, and has no byte output; a shorter operand is a TruncatedFrameError. -/
def Obligations.ParseReadsTheHeaderFields : Prop :=
  ∀ s : State, nBufLegal s.nBuf = true →
    ∃ t, exec .parse s = .next t ∧ CommandFrame s t ∧ NoOutput t ∧
      (if s.nBuf < s.inLen.toNat then Failed 1 3 t ∧ t.res = res0
       else if s.inLen.toNat < 16 then Failed 4 0 t ∧ t.res = res0
       else
        Succeeded t ∧
        t.res.fwv.toNat = u16Nat (ibufByte s 0) (ibufByte s 1) ∧
        t.res.dsz.toNat = u16Nat (ibufByte s 2) (ibufByte s 3) ∧
        t.res.crcs.toNat = u16Nat (ibufByte s 4) (ibufByte s 5) ∧
        t.res.dlen.toNat = s.inLen.toNat - 16 ∧ t.res.fmt = 0 ∧ t.res.crcc = 0)

/-- R218: CRC16 puts the CRC of the whole operand into CRC_CALC and has no byte output; its one error here
is LENGTH_RANGE. -/
def Obligations.Crc16ComputesOverTheWholeOperand : Prop :=
  ∀ s : State,
    ∃ t, exec .crc16 s = .next t ∧ CommandFrame s t ∧ NoOutput t ∧
      (if s.inLen.toNat ≤ s.nBuf then
        Succeeded t ∧
        t.res = { res0 with
          crcc := crc16 ((List.range s.inLen.toNat).map (fun i => ibufByte s i)) }
       else Failed 1 3 t ∧ t.res = res0)

/-- R220: VERIFY on at least 16 bytes puts the frame's fields and the CRC of the payload into the result
registers, and ends in DONE exactly when the two CRCs are equal, else in ChecksumMismatchError; a
shorter operand is a TruncatedFrameError. -/
def Obligations.VerifyComparesTheChecksums : Prop :=
  ∀ s : State, nBufLegal s.nBuf = true →
    ∃ t, exec .verify s = .next t ∧ CommandFrame s t ∧ NoOutput t ∧
      (if s.nBuf < s.inLen.toNat then Failed 1 3 t ∧ t.res = res0
       else if s.inLen.toNat < 16 then Failed 4 0 t ∧ t.res = res0
       else
        t.res.fwv.toNat = u16Nat (ibufByte s 0) (ibufByte s 1) ∧
        t.res.dsz.toNat = u16Nat (ibufByte s 2) (ibufByte s 3) ∧
        t.res.crcs.toNat = u16Nat (ibufByte s 4) (ibufByte s 5) ∧
        t.res.dlen.toNat = s.inLen.toNat - 16 ∧ t.res.fmt = 0 ∧
        t.res.crcc = crc16 (payload s) ∧
        (if (crc16 (payload s)).toNat = u16Nat (ibufByte s 4) (ibufByte s 5) then Succeeded t
         else Failed 5 0 t))

/-- R183, R181: ECBDEC on a positive multiple of 16 bytes decrypts each 16-byte block by itself under the
key as loaded; any other length is a BlockAlignmentError, and LENGTH_RANGE and KEY_NOT_LOADED come
first. -/
def Obligations.EcbdecDecryptsEachBlock : Prop :=
  ∀ s : State, nBufLegal s.nBuf = true →
    ∃ t, exec .ecbdec s = .next t ∧ CommandFrame s t ∧ t.res = res0 ∧
      (if s.nBuf < s.inLen.toNat then Failed 1 3 t
       else if s.kw ≠ 0b1111 then Failed 1 2 t
       else if s.inLen.toNat = 0 ∨ s.inLen.toNat % 16 ≠ 0 then Failed 3 0 t
       else
        Succeeded t ∧ t.outLen.toNat = s.inLen.toNat ∧
        (∀ m, m < s.inLen.toNat / 16 →
          (List.range 16).map (fun j => obufRead t (16 * m + j)) =
            Aes.aesDec (keyBytes s) ((List.range 16).map (fun j => ibufByte s (16 * m + j)))) ∧
        (∀ i, s.inLen.toNat ≤ i → obufRead t i = 0))

/-! ## UNPACK -/

/-- R239: a container of fewer than 2 bytes ends in ShortContainerError, whatever DC is. -/
def Obligations.UnpackRefusesShortContainers : Prop :=
  ∀ (dc rh : Bool) (s : State), s.inLen.toNat ≤ s.nBuf → s.kw = 0b1111 → s.inLen.toNat < 2 →
    ∃ t, exec (.unpack dc rh) s = .next t ∧ Failed 6 0 t ∧ t.res = res0 ∧ CommandFrame s t

/-- R240: with checks enabled a format version other than 0x0010 ends in UnsupportedVersionError, whatever
the container's length; with checks disabled, or with 0x0010, the gate passes. FMT_VER holds the value
read in every case. -/
def Obligations.UnpackGatesTheFormatVersion : Prop :=
  ∀ (dc rh : Bool) (s : State), s.inLen.toNat ≤ s.nBuf → s.kw = 0b1111 → 2 ≤ s.inLen.toNat →
    ∃ t, exec (.unpack dc rh) s = .next t ∧ CommandFrame s t ∧
      t.res.fmt.toNat = u16Nat (ibufByte s 0) (ibufByte s 1) ∧
      (if dc = false ∧ u16Nat (ibufByte s 0) (ibufByte s 1) ≠ 0x0010 then
        Failed 2 0 t ∧ t.res = { res0 with fmt := t.res.fmt }
       else t.errcode ≠ 2)

/-- R242: a ciphertext whose length is no positive multiple of 16 ends in BlockAlignmentError, whether or
not checks are disabled, once the version gate has passed; the other lengths never do. -/
def Obligations.UnpackRefusesMisalignedCiphertexts : Prop :=
  ∀ (dc rh : Bool) (s : State), s.inLen.toNat ≤ s.nBuf → s.kw = 0b1111 → 2 ≤ s.inLen.toNat →
    ∃ t, exec (.unpack dc rh) s = .next t ∧ CommandFrame s t ∧
      (if dc = false ∧ u16Nat (ibufByte s 0) (ibufByte s 1) ≠ 0x0010 then t.errcode = 2
       else if 0 < s.inLen.toNat - 2 ∧ (s.inLen.toNat - 2) % 16 = 0 then t.errcode ≠ 3
       else
        Failed 3 0 t ∧ t.res = { res0 with fmt := t.res.fmt } ∧
        t.res.fmt.toNat = u16Nat (ibufByte s 0) (ibufByte s 1))

/-- UNPACK with checks disabled outputs the decrypted ciphertext, without its first 16 bytes when RH is
set, for every format version and every CRC; of the result registers only FMT_VER is set (R238, R244,
R245, R246). -/
def Obligations.UncheckedUnpackOutputsThePlaintext : Prop :=
  ∀ (rh : Bool) (s : State), nBufLegal s.nBuf = true → s.inLen.toNat ≤ s.nBuf → s.kw = 0b1111 →
    2 < s.inLen.toNat → (s.inLen.toNat - 2) % 16 = 0 →
    ∃ t, exec (.unpack true rh) s = .next t ∧ Succeeded t ∧ CommandFrame s t ∧
      OutputIs (if rh then (decrypt (keyBytes s) (ciphertext s)).drop 16
                else decrypt (keyBytes s) (ciphertext s)) t ∧
      t.outLen.toNat = (if rh then s.inLen.toNat - 18 else s.inLen.toNat - 2) ∧
      t.res = { res0 with fmt := t.res.fmt } ∧
      t.res.fmt.toNat = u16Nat (ibufByte s 0) (ibufByte s 1)

/-- UNPACK with checks enabled on a supported, aligned container: the result registers hold the frame of
the plaintext, and the plaintext is output exactly when its CRC is the stored one, else the command
ends in ChecksumMismatchError with no output (R238, R244, R250). -/
def Obligations.CheckedUnpackVerifiesThePlaintext : Prop :=
  ∀ (rh : Bool) (s : State) (P : Bytes),
    nBufLegal s.nBuf = true → s.inLen.toNat ≤ s.nBuf → s.kw = 0b1111 →
    2 < s.inLen.toNat → (s.inLen.toNat - 2) % 16 = 0 →
    u16Nat (ibufByte s 0) (ibufByte s 1) = 0x0010 →
    P = decrypt (keyBytes s) (ciphertext s) →
    ∃ t, exec (.unpack false rh) s = .next t ∧ CommandFrame s t ∧
      t.res.fmt = 0x0010 ∧
      t.res.fwv.toNat = u16Nat (P.getD 0 0) (P.getD 1 0) ∧
      t.res.dsz.toNat = u16Nat (P.getD 2 0) (P.getD 3 0) ∧
      t.res.crcs.toNat = u16Nat (P.getD 4 0) (P.getD 5 0) ∧
      t.res.crcc = crc16 (P.drop 16) ∧
      t.res.dlen.toNat = s.inLen.toNat - 18 ∧
      (if (crc16 (P.drop 16)).toNat = u16Nat (P.getD 4 0) (P.getD 5 0) then
        Succeeded t ∧ OutputIs (if rh then P.drop 16 else P) t
       else Failed 5 0 t)

/-- R205: TruncatedFrameError comes only from PARSE, VERIFY and STRIP; UNPACK never ends in it. -/
def Obligations.UnpackNeverMeetsATruncatedFrame : Prop :=
  ∀ (i : Instr) (s t : State), exec i s = .next t → t.errcode = 4 →
    (i = .parse ∨ i = .verify ∨ i = .strip) ∧ ∀ dc rh, i ≠ .unpack dc rh

/-- R251: UNPACK.dc on a container of the reference encryption of P gives back P. -/
def Obligations.UnpackInvertsTheReferenceEncryption : Prop :=
  ∀ (s : State) (K P : Bytes) (f : Half),
    nBufLegal s.nBuf = true → s.kw = 0b1111 → K.length = 16 → keyBytes s = K →
    0 < P.length → P.length % 16 = 0 → P.length ≤ s.nBuf - 2 →
    s.inLen.toNat = P.length + 2 →
    operand s = [f.setWidth 8, (f >>> 8).setWidth 8] ++ Aes.encrypt K P →
    ∃ t, exec (.unpack true false) s = .next t ∧ Succeeded t ∧ OutputIs P t ∧ t.res.fmt = f

/-! ## The data path -/

/-- R247: Decrypt works block by block: plaintext block i is Rev(AesDec(Rev(K), Rev(C_i))). -/
def Obligations.DecryptIsBlockLocal : Prop :=
  ∀ (K C : Bytes) (m : Nat), 0 < m → C.length = 16 * m →
    (decrypt K C).length = C.length ∧
    ∀ i, i < m →
      ((decrypt K C).drop (16 * i)).take 16 =
        rev (Aes.aesDec (rev K) (rev ((C.drop (16 * i)).take 16)))

/-- R172: the S-box is the affine map of the inverse, and InvSbox is its inverse permutation. -/
def Obligations.SboxIsTheAffineMapOfTheInverse : Prop :=
  ∀ x : Byte,
    (x ≠ 0 → Aes.gmul x (Aes.inv x) = 1) ∧ Aes.inv 0 = 0 ∧
    Aes.sbox x = Aes.affine (Aes.inv x) ∧ Aes.invSbox (Aes.sbox x) = x

/-- R175: the key schedule is 44 words of 4 bytes, the key first and then the recurrence; round key r is
the four words from 4r on. -/
def Obligations.KeyScheduleFollowsTheRecurrence : Prop :=
  ∀ K : Bytes, K.length = 16 →
    (Aes.keyExpansion K).length = 44 ∧
    (∀ i, i < 44 → ((Aes.keyExpansion K).getD i []).length = 4) ∧
    (∀ i, i < 4 → (Aes.keyExpansion K).getD i [] = (K.drop (4 * i)).take 4) ∧
    (∀ i, 4 ≤ i → i < 44 →
      (Aes.keyExpansion K).getD i [] =
        Aes.xorBytes ((Aes.keyExpansion K).getD (i - 4) [])
          (if i % 4 = 0 then
            Aes.xorBytes (Aes.subWord (Aes.rotWord ((Aes.keyExpansion K).getD (i - 1) [])))
              (Aes.rcon (i / 4))
           else (Aes.keyExpansion K).getD (i - 1) [])) ∧
    ∀ r, r < 11 →
      Aes.roundKey (Aes.keyExpansion K) r = (((Aes.keyExpansion K).drop (4 * r)).take 4).flatten

/-- R179: the inverse cipher and the reference forward cipher are inverse to each other. -/
def Obligations.AesDecAndAesEncAreInverse : Prop :=
  ∀ K X : Bytes, K.length = 16 → X.length = 16 →
    Aes.aesDec K (Aes.aesEnc K X) = X ∧ Aes.aesEnc K (Aes.aesDec K X) = X

/-- The one-block example of R178, the FIPS-197 Appendix C.1 vector. -/
def Obligations.AesDecGivesTheFipsVector : Prop :=
  Aes.aesDec
    [0x00, 0x01, 0x02, 0x03, 0x04, 0x05, 0x06, 0x07, 0x08, 0x09, 0x0a, 0x0b, 0x0c, 0x0d, 0x0e, 0x0f]
    [0x69, 0xc4, 0xe0, 0xd8, 0x6a, 0x7b, 0x04, 0x30, 0xd8, 0xcd, 0xb7, 0x80, 0x70, 0xb4, 0xc5, 0x5a] =
    [0x00, 0x11, 0x22, 0x33, 0x44, 0x55, 0x66, 0x77, 0x88, 0x99, 0xaa, 0xbb, 0xcc, 0xdd, 0xee, 0xff]

/-- R216: the byte-at-a-time form of the CRC with the table T[i] = Crc16([i]), and its example entries. -/
def Obligations.CrcTableFormAgrees : Prop :=
  (∀ B : Bytes,
    crc16 B =
      B.foldl (fun (c : Half) (b : Byte) => (c <<< 8) ^^^ crc16 [(c >>> 8).setWidth 8 ^^^ b]) (0x0000 : Half)) ∧
  crc16 [0x01] = 0x1021 ∧ crc16 [0x80] = 0x9188 ∧ crc16 [0xFF] = 0x1EF0

/-- R217 laws 1, 2 and 3: the CRC of nothing and of zeros is 0, and the CRC is linear. -/
def Obligations.CrcIsLinear : Prop :=
  (∀ n, crc16 (List.replicate n 0x00) = 0x0000) ∧
  ∀ A B : Bytes, A.length = B.length →
    crc16 (List.zipWith (· ^^^ ·) A B) = crc16 A ^^^ crc16 B

/-- R217 law 4: every single-bit change of the data changes the CRC. -/
def Obligations.CrcDetectsSingleBitErrors : Prop :=
  ∀ (B : Bytes) (i : Nat) (b : Nat), i < B.length → b < 8 →
    crc16 (B.set i (B.getD i 0 ^^^ (1#8 <<< b))) ≠ crc16 B

/-! ## The register page and the bus -/

/-- R26, R54: where STATUS shows each of its fields, the reserved bits reading 0. -/
def Obligations.StatusShowsItsFields : Prop :=
  ∀ s : State,
    (statusWord s).getLsbD 0 = s.busy ∧ (statusWord s).getLsbD 1 = s.done ∧
    (statusWord s).getLsbD 2 = s.err ∧ (statusWord s).getLsbD 3 = decide (s.kw = 0b1111) ∧
    (statusWord s).getLsbD 4 = s.wrBusy ∧ (statusWord s).extractLsb' 5 3 = 0 ∧
    (statusWord s).extractLsb' 8 4 = s.errcode ∧ (statusWord s).extractLsb' 12 3 = s.cfgsub ∧
    (statusWord s).extractLsb' 15 17 = 0

/-- A host read of a register of the page: its value while no draw is due, at its offset of R21. -/
def Obligations.RegisterReadsReturnTheirValues : Prop :=
  ∀ (s : State) (r : Reg) (rest : List EnvEvent),
    s.rstN = true → (s.busy = false ∨ r.isResult = false) → s.HostMoves (Script.rd r) rest →
    step s = .next (s.afterEvent rest (.data
      (match r with
       | .id => 0x41544F51
       | .bufsz => BitVec.ofNat 32 (s.nBuf % 2 ^ 17)
       | .ctrl => if s.ie then 1 else 0
       | .status => statusWord s
       | .cmd => s.cmd
       | .inLen => s.inLen
       | .outLen => s.outLen.setWidth 32
       | .fmtVer => s.res.fmt.setWidth 32
       | .fwVer => s.res.fwv.setWidth 32
       | .dataSize => s.res.dsz.setWidth 32
       | .crcStored => s.res.crcs.setWidth 32
       | .crcCalc => s.res.crcc.setWidth 32
       | .dataLen => s.res.dlen.setWidth 32
       | .key0 | .key1 | .key2 | .key3 => 0)))

/-- R42: a host read of a result register while BUSY = 1 returns the next free value, and nothing else
changes. (The form of the free value is the model's, assumption 5.) -/
def Obligations.BusyResultReadsAreFreshDraws : Prop :=
  ∀ (s : State) (r : Reg) (rest : List EnvEvent),
    s.rstN = true → s.busy = true → r.isResult = true → s.HostMoves (Script.rd r) rest →
    step s = .next { s.afterEvent rest (.data (Config.busyResult s.draws)) with draws := s.draws + 1 }

/-- R45: a read of KEY0-KEY3 returns 0, and no bus read depends on the key bytes, so no bus access can read
the key back. -/
def Obligations.NoReadShowsTheKey : Prop :=
  (∀ (s : State), ∀ r ∈ [Reg.key0, .key1, .key2, .key3],
    portAccess (.read (.offset r.offset) .word) s = (.data 0, s)) ∧
  ∀ (s : State) (k0 k1 k2 k3 : Word) (addr : BusAddr) (n : Width),
    (portAccess (.read addr n) { s with key0 := k0, key1 := k1, key2 := k2, key3 := k3 }).1 =
      (portAccess (.read addr n) s).1

/-- R82: a read changes nothing but the count of draws, and that only for a result register while BUSY. -/
def Obligations.ReadsHaveNoSideEffect : Prop :=
  ∀ (s : State) (addr : BusAddr) (n : Width),
    (∃ d, (portAccess (.read addr n) s).2 = { s with draws := d }) ∧
    ((s.busy = false ∨ ∀ r, resolve s n addr = some (.reg r) → r.isResult = false) →
      (portAccess (.read addr n) s).2 = s)

/-- R25: a write of CTRL. -/
def Obligations.CtrlWriteSetsIEAndClearsTheKey : Prop :=
  ∀ (s : State) (v : Word) (rest : List EnvEvent),
    s.rstN = true → s.HostMoves (Script.wr .ctrl v) rest →
    step s = .next
      (if v.getLsbD 1 then
        if s.busy then { s.afterEvent rest .ok with ie := v.getLsbD 0, wrBusy := true }
        else { s.afterEvent rest .ok with
          ie := v.getLsbD 0, key0 := 0, key1 := 0, key2 := 0, key3 := 0, kw := 0 }
       else { s.afterEvent rest .ok with ie := v.getLsbD 0 })

/-- R32: a write of STATUS clears exactly what its bits 1, 2 and 4 select, BUSY or not. -/
def Obligations.StatusWriteClearsTheSelectedBits : Prop :=
  ∀ (s : State) (v : Word) (rest : List EnvEvent),
    s.rstN = true → s.HostMoves (Script.wr .status v) rest →
    step s = .next { s.afterEvent rest .ok with
      done := s.done && !v.getLsbD 1
      err := s.err && !v.getLsbD 2
      errcode := if v.getLsbD 2 then 0 else s.errcode
      cfgsub := if v.getLsbD 2 then 0 else s.cfgsub
      wrBusy := s.wrBusy && !v.getLsbD 4 }

/-- R44, R34: a write of KEYj stores the word and sets KW[j], and a write of IN_LEN stores any value; while
BUSY = 1 both are dropped and set WR_BUSY. -/
def Obligations.OperandRegisterWritesStore : Prop :=
  ∀ (s : State) (v : Word) (rest : List EnvEvent), s.rstN = true →
    (s.HostMoves (Script.wr .inLen v) rest →
      step s = .next (if s.busy then { s.afterEvent rest .ok with wrBusy := true }
        else { s.afterEvent rest .ok with inLen := v })) ∧
    (s.HostMoves (Script.wr .key0 v) rest →
      step s = .next (if s.busy then { s.afterEvent rest .ok with wrBusy := true }
        else { s.afterEvent rest .ok with key0 := v, kw := s.kw ||| 0b0001 })) ∧
    (s.HostMoves (Script.wr .key1 v) rest →
      step s = .next (if s.busy then { s.afterEvent rest .ok with wrBusy := true }
        else { s.afterEvent rest .ok with key1 := v, kw := s.kw ||| 0b0010 })) ∧
    (s.HostMoves (Script.wr .key2 v) rest →
      step s = .next (if s.busy then { s.afterEvent rest .ok with wrBusy := true }
        else { s.afterEvent rest .ok with key2 := v, kw := s.kw ||| 0b0100 })) ∧
    (s.HostMoves (Script.wr .key3 v) rest →
      step s = .next (if s.busy then { s.afterEvent rest .ok with wrBusy := true }
        else { s.afterEvent rest .ok with key3 := v, kw := s.kw ||| 0b1000 }))

/-- R43, R44, R112: the host's `key` script of any 16 bytes loads exactly those bytes and makes KEY_VALID
1, whatever was loaded before. -/
def Obligations.KeyScriptLoadsTheKey : Prop :=
  ∀ (s : State) (K : Bytes), K.length = 16 → s.rstN = true → s.busy = false →
    s.env = Script.key K →
    ∃ t, Sys2Proof.core.run 4 s = .next t ∧ keyBytes t = K ∧ keyValid t = true ∧
      t.env = [] ∧ t.busy = false ∧ t.inLen = s.inLen ∧ (∀ i, ibufByte t i = ibufByte s i)

/-- R112: the host's `readout` reads OUT_LEN, giving m, and goes on with the byte reads OBUF+0 to
OBUF+(m-1). (That the host is a list of pending events is the model's choice, assumption 11.) -/
def Obligations.ReadoutIssuesTheByteReads : Prop :=
  ∀ (s : State) (rest : List EnvEvent), s.rstN = true → s.HostMoves .readout rest →
    step s = .next (s.afterEvent
      ((List.range s.outLen.toNat).map
          (fun i => .access (.read (.offset (0x20000 + i)) .byte)) ++ rest)
      (.data (s.outLen.setWidth 32)))

/-- R300: the writes that are dropped while BUSY = 1 change WR_BUSY alone and return OK; CTRL.IE and the W1C
bits of STATUS take effect all the same; writes to read-only registers and to OBUF are ignored, BUSY or
not; reads are never dropped. -/
def Obligations.BusyWritesAreDropped : Prop :=
  (∀ (s : State) (v : Word) (n : Width) (addr : BusAddr) (tgt : Target) (rest : List EnvEvent),
    s.rstN = true → s.HostMoves (.access (.write addr n v)) rest → resolve s n addr = some tgt →
    (s.busy = true →
      (tgt ∈ [.reg .cmd, .reg .inLen, .reg .key0, .reg .key1, .reg .key2, .reg .key3] ∨
        ∃ i, tgt = .ibuf i) →
      step s = .next { s.afterEvent rest .ok with wrBusy := true }) ∧
    (s.busy = true → tgt = .reg .ctrl →
      step s = .next { s.afterEvent rest .ok with
        ie := v.getLsbD 0, wrBusy := s.wrBusy || v.getLsbD 1 }) ∧
    (s.busy = true → tgt = .reg .status →
      step s = .next { s.afterEvent rest .ok with
        done := s.done && !v.getLsbD 1
        err := s.err && !v.getLsbD 2
        errcode := if v.getLsbD 2 then 0 else s.errcode
        cfgsub := if v.getLsbD 2 then 0 else s.cfgsub
        wrBusy := s.wrBusy && !v.getLsbD 4 }) ∧
    ((tgt ∈ [.reg .id, .reg .bufsz, .reg .outLen, .reg .fmtVer, .reg .fwVer, .reg .dataSize,
              .reg .crcStored, .reg .crcCalc, .reg .dataLen] ∨ ∃ i, tgt = .obuf i) →
      step s = .next (s.afterEvent rest .ok))) ∧
  ∀ (s : State) (n : Width) (addr : BusAddr), resolve s n addr ≠ none →
    ∃ w : Word, (portAccess (.read addr n) s).1 = .data w

/-- R77, R79: an IBUF write of n bytes stores exactly its n bytes, least significant first, at the index the
access reaches, and leaves every other byte and everything else alone. -/
def Obligations.IbufWriteStoresItsBytes : Prop :=
  ∀ (s : State) (v : Word) (n : Width) (a i : Nat) (rest : List EnvEvent),
    s.rstN = true → s.busy = false →
    s.HostMoves (.access (.write (.offset a) n v)) rest →
    resolve s n (.offset a) = some (.ibuf i) →
    ∃ t, step s = .next t ∧
      t = { s.afterEvent rest .ok with ibuf := t.ibuf } ∧
      (∀ k, i ≤ k → k < i + n.bytes → (ibufByte t k).toNat = v.toNat / 256 ^ (k - i) % 256) ∧
      (∀ k, (k < i ∨ i + n.bytes ≤ k) → ibufByte t k = ibufByte s k)

/-- R77: a buffer read returns the little-endian value of the bytes it reaches; a byte of OBUF at or beyond
OUT_LEN reads 0. -/
def Obligations.BufferReadsAreLittleEndian : Prop :=
  ∀ (s : State) (n : Width) (a i : Nat),
    (resolve s n (.offset a) = some (.ibuf i) →
      ∃ w : Word, portAccess (.read (.offset a) n) s = (.data w, s) ∧
        w.toNat =
          ((List.range n.bytes).map (fun j => (ibufByte s (i + j)).toNat * 256 ^ j)).sum) ∧
    (resolve s n (.offset a) = some (.obuf i) →
      ∃ w : Word, portAccess (.read (.offset a) n) s = (.data w, s) ∧
        w.toNat =
          ((List.range n.bytes).map (fun j =>
            (if i + j < s.outLen.toNat then (obufByte s (i + j)).toNat else 0) * 256 ^ j)).sum)

/-- R73, R74, R76: which accesses are legal, and what they reach. -/
def Obligations.LegalAccessesAreTheListedOnes : Prop :=
  ∀ (nBuf : Nat) (n : Width) (a : Nat), nBufLegal nBuf = true →
    (∀ r, accessTarget nBuf n a = some (.reg r) ↔ n = .word ∧ a = r.offset) ∧
    (∀ i, accessTarget nBuf n a = some (.ibuf i) ↔
      a = 0x10000 + i ∧ i + n.bytes ≤ nBuf ∧ i % n.bytes = 0) ∧
    (∀ i, accessTarget nBuf n a = some (.obuf i) ↔
      a = 0x20000 + i ∧ i + n.bytes ≤ nBuf ∧ i % n.bytes = 0)

/-- R75: a transaction that reaches nothing is a bus error: the block's state does not change, and for the
host program it is a fault, with which the model's run ends (assumption 10). -/
def Obligations.BusErrorChangesNothing : Prop :=
  ∀ (s : State) (addr : BusAddr) (n : Width) (v : Word) (rest : List EnvEvent),
    resolve s n addr = none →
    portAccess (.read addr n) s = (.busError, s) ∧ portAccess (.write addr n v) s = (.busError, s) ∧
    (s.rstN = true → s.HostMoves (.access (.read addr n)) rest →
      step s = .fault (.busError addr n .read)) ∧
    (s.rstN = true → s.HostMoves (.access (.write addr n v)) rest →
      step s = .fault (.busError addr n .write))

/-- R70: which bus addresses reach the block, and at which offset; BASE is aligned. -/
def Obligations.ApertureIsAtBase : Prop :=
  Config.base % 0x40000 = 0 ∧
  ∀ A a : Nat, apertureOffset (.bus A) = some a ↔ A = Config.base + a ∧ a < 0x40000

/-! ## Reset, the invariants and whole-machine rules -/

/-- R53: what reset leaves, for every N_BUF. -/
def Obligations.ResetLeavesTheListedValues : Prop :=
  ∀ n : Nat, nBufLegal n = true →
    regValue (State.resetWith n) .id = 0x41544F51 ∧
    (regValue (State.resetWith n) .bufsz).toNat = n ∧ (State.resetWith n).ie = false ∧
    statusWord (State.resetWith n) = 0x00000000 ∧ (State.resetWith n).cmd = 0 ∧
    (State.resetWith n).inLen = 0 ∧ (State.resetWith n).outLen = 0 ∧
    (State.resetWith n).res = res0 ∧ keyBytes (State.resetWith n) = List.replicate 16 0 ∧
    (State.resetWith n).kw = 0b0000 ∧
    (∀ i, ibufByte (State.resetWith n) i = Config.ibufReset (State.resetWith n).resets i) ∧
    (∀ i, obufRead (State.resetWith n) i = 0) ∧
    (State.resetWith n).seq = .idle ∧ irq (State.resetWith n) = false

/-- R290: the reset event sets the block to its reset values in one step, whatever it was doing; while
`rst_n` is 0 it performs no completion, a transaction has no effect, and its response is whatever the
free value is. (The order of the edges of `rst_n`, and what stays with the outside world, are the model's
choice, assumption 16; the free response is assumption 6.) -/
def Obligations.ResetAbortsAndHolds : Prop :=
  (∀ (s : State) (rest : List EnvEvent), s.HostMoves .rstLow rest →
    step s = .next { State.resetWith s.nBuf with
      rstN := false, env := rest, resp := s.resp, draws := s.draws, resets := s.resets + 1 }) ∧
  (∀ s : State, s.rstN = false → s.env = [] → step s = .next s) ∧
  (∀ (s : State) (t : Txn) (rest : List EnvEvent), s.rstN = false →
    s.HostMoves (.access t) rest →
    ∃ r d, step s = .next { s.afterEvent rest r with draws := d }) ∧
  (∀ (s : State) (rest : List EnvEvent), s.rstN = false → s.HostMoves .rstHigh rest →
    step s = .next { s with rstN := true, env := rest, latency := s.latency - 1 })

/-- The invariants of R55, and the ones beside them, hold at reset for every legal N_BUF; and `State.reset`
is the reference configuration, N_BUF = 65536 (the model's choice, assumption 1). -/
def Obligations.ResetMeetsTheInvariants : Prop :=
  (∀ n : Nat, nBufLegal n = true → (State.resetWith n).Inv) ∧
    State.reset = State.resetWith 65536 ∧ State.reset.Inv

/-- R55: every step keeps the invariants, from every state that has them. -/
def Obligations.EveryStepKeepsTheInvariants : Prop :=
  ∀ s t : State, s.Inv → step s = .next t → t.Inv

/-- R86: while a command runs, no step changes what it reads. -/
def Obligations.OperandsAreStableWhileBusy : Prop :=
  ∀ s t : State, s.busy = true → step s = .next t → t.busy = true → SameOperands s t

/-- R27, R142: BUSY rises only by an accepted CMD write, and falls only by a completion or by reset. -/
def Obligations.BusyRisesByAcceptanceAndFallsByCompletion : Prop :=
  (∀ s t : State, s.busy = false → step s = .next t → t.busy = true →
    ∃ addr n v rest, s.env = .access (.write addr n v) :: rest ∧
      resolve s n addr = some (.reg .cmd) ∧ t.cmd = v) ∧
  (∀ s t : State, s.busy = true → step s = .next t → t.busy = false →
    (s.EngineMoves ∧ t.done = !t.err) ∨ ∃ rest, s.env = .rstLow :: rest ∧ t.rstN = false)

/-- R42, R307: while BUSY = 0 the results stay what they are until the next command is accepted or a reset
occurs. -/
def Obligations.ResultsStayUntilAcceptanceOrReset : Prop :=
  ∀ s t : State, s.busy = false → step s = .next t →
    (t.res ≠ s.res ∨ t.outLen ≠ s.outLen ∨ ∃ i, obufRead t i ≠ obufRead s i) →
    (t.busy = true ∧ ∃ addr n v rest, s.env = .access (.write addr n v) :: rest ∧
      resolve s n addr = some (.reg .cmd)) ∨ ∃ rest, s.env = .rstLow :: rest

/-- R295: the key changes only by a write of a KEY register, by CTRL.KEY_CLR, or by reset. -/
def Obligations.KeyChangesOnlyByTheHost : Prop :=
  ∀ s t : State, step s = .next t → (keyBytes t ≠ keyBytes s ∨ t.kw ≠ s.kw) →
    ∃ e rest, s.env = e :: rest ∧
      (e = .rstLow ∨
        ∃ addr n v, e = .access (.write addr n v) ∧
          ((∃ r ∈ [Reg.key0, .key1, .key2, .key3], resolve s n addr = some (.reg r)) ∨
            (resolve s n addr = some (.reg .ctrl) ∧ v.getLsbD 1 = true)))

/-- R301, R272: while BUSY = 1, OUT_LEN and every OBUF cell read 0 and the interrupt is low. -/
def Obligations.NothingShowsWhileBusy : Prop :=
  ∀ s : State, s.Inv → s.busy = true → NoOutput s ∧ regValue s .outLen = 0 ∧ irq s = false

/-- R113, R306: the host's `wait` ends: the running command completes after as many polls as its latency
lets through, and the next poll sees BUSY = 0. (That the latency is a count of events of the outside
world is the model's choice, assumption 4.) -/
def Obligations.WaitEndsWithTheCommandComplete : Prop :=
  ∀ (s : State) (rest : List EnvEvent), s.rstN = true → s.busy = true → s.env = .wait :: rest →
    ∃ t, Sys2Proof.core.run (s.latency + 2) s = .next t ∧ t.busy = false ∧ t.done = !t.err ∧
      t.env = rest ∧ SameOperands s t
end

