-- ==== Sys2Proof/Laws/State.lean ====
section
/-! SUPPORT. What each state update does to each field, one lemma per field per update. -/

namespace Sys2Proof.Machine

/-! ## accept -/

@[simp] theorem accept_nBuf (v : Word) (s : State) : (accept v s).nBuf = s.nBuf := rfl
@[simp] theorem accept_ie (v : Word) (s : State) : (accept v s).ie = s.ie := rfl
@[simp] theorem accept_busy (v : Word) (s : State) : (accept v s).busy = true := rfl
@[simp] theorem accept_done (v : Word) (s : State) : (accept v s).done = false := rfl
@[simp] theorem accept_err (v : Word) (s : State) : (accept v s).err = false := rfl
@[simp] theorem accept_wrBusy (v : Word) (s : State) : (accept v s).wrBusy = s.wrBusy := rfl
@[simp] theorem accept_errcode (v : Word) (s : State) : (accept v s).errcode = 0 := rfl
@[simp] theorem accept_cfgsub (v : Word) (s : State) : (accept v s).cfgsub = 0 := rfl
@[simp] theorem accept_cmd (v : Word) (s : State) : (accept v s).cmd = v := rfl
@[simp] theorem accept_inLen (v : Word) (s : State) : (accept v s).inLen = s.inLen := rfl
@[simp] theorem accept_outLen (v : Word) (s : State) : (accept v s).outLen = 0 := rfl
@[simp] theorem accept_res (v : Word) (s : State) : (accept v s).res = s.res := rfl
@[simp] theorem accept_key0 (v : Word) (s : State) : (accept v s).key0 = s.key0 := rfl
@[simp] theorem accept_key1 (v : Word) (s : State) : (accept v s).key1 = s.key1 := rfl
@[simp] theorem accept_key2 (v : Word) (s : State) : (accept v s).key2 = s.key2 := rfl
@[simp] theorem accept_key3 (v : Word) (s : State) : (accept v s).key3 = s.key3 := rfl
@[simp] theorem accept_kw (v : Word) (s : State) : (accept v s).kw = s.kw := rfl
@[simp] theorem accept_ibuf (v : Word) (s : State) : (accept v s).ibuf = s.ibuf := rfl
@[simp] theorem accept_obuf (v : Word) (s : State) : (accept v s).obuf = s.obuf := rfl
@[simp] theorem accept_seq (v : Word) (s : State) : (accept v s).seq = acceptedSeq v := rfl
@[simp] theorem accept_rstN (v : Word) (s : State) : (accept v s).rstN = s.rstN := rfl
@[simp] theorem accept_env (v : Word) (s : State) : (accept v s).env = s.env := rfl
@[simp] theorem accept_resp (v : Word) (s : State) : (accept v s).resp = s.resp := rfl
@[simp] theorem accept_latency (v : Word) (s : State) : (accept v s).latency = Config.latency s.draws := rfl
@[simp] theorem accept_draws (v : Word) (s : State) : (accept v s).draws = s.draws + 1 := rfl
@[simp] theorem accept_resets (v : Word) (s : State) : (accept v s).resets = s.resets := rfl

/-! ## placeCommand -/

@[simp] theorem placeCommand_nBuf (v : Word) (s : State) : (placeCommand v s).nBuf = s.nBuf := rfl
@[simp] theorem placeCommand_ie (v : Word) (s : State) : (placeCommand v s).ie = s.ie := rfl
@[simp] theorem placeCommand_busy (v : Word) (s : State) : (placeCommand v s).busy = true := rfl
@[simp] theorem placeCommand_done (v : Word) (s : State) : (placeCommand v s).done = false := rfl
@[simp] theorem placeCommand_err (v : Word) (s : State) : (placeCommand v s).err = false := rfl
@[simp] theorem placeCommand_wrBusy (v : Word) (s : State) : (placeCommand v s).wrBusy = s.wrBusy := rfl
@[simp] theorem placeCommand_errcode (v : Word) (s : State) : (placeCommand v s).errcode = 0 := rfl
@[simp] theorem placeCommand_cfgsub (v : Word) (s : State) : (placeCommand v s).cfgsub = 0 := rfl
@[simp] theorem placeCommand_cmd (v : Word) (s : State) : (placeCommand v s).cmd = v := rfl
@[simp] theorem placeCommand_inLen (v : Word) (s : State) : (placeCommand v s).inLen = s.inLen := rfl
@[simp] theorem placeCommand_outLen (v : Word) (s : State) : (placeCommand v s).outLen = 0 := rfl
@[simp] theorem placeCommand_res (v : Word) (s : State) : (placeCommand v s).res = s.res := rfl
@[simp] theorem placeCommand_key0 (v : Word) (s : State) : (placeCommand v s).key0 = s.key0 := rfl
@[simp] theorem placeCommand_key1 (v : Word) (s : State) : (placeCommand v s).key1 = s.key1 := rfl
@[simp] theorem placeCommand_key2 (v : Word) (s : State) : (placeCommand v s).key2 = s.key2 := rfl
@[simp] theorem placeCommand_key3 (v : Word) (s : State) : (placeCommand v s).key3 = s.key3 := rfl
@[simp] theorem placeCommand_kw (v : Word) (s : State) : (placeCommand v s).kw = s.kw := rfl
@[simp] theorem placeCommand_ibuf (v : Word) (s : State) : (placeCommand v s).ibuf = s.ibuf := rfl
@[simp] theorem placeCommand_obuf (v : Word) (s : State) : (placeCommand v s).obuf = s.obuf := rfl
@[simp] theorem placeCommand_seq (v : Word) (s : State) : (placeCommand v s).seq = acceptedSeq v := rfl
@[simp] theorem placeCommand_rstN (v : Word) (s : State) : (placeCommand v s).rstN = true := rfl
@[simp] theorem placeCommand_env (v : Word) (s : State) : (placeCommand v s).env = s.env := rfl
@[simp] theorem placeCommand_resp (v : Word) (s : State) : (placeCommand v s).resp = s.resp := rfl
@[simp] theorem placeCommand_latency (v : Word) (s : State) : (placeCommand v s).latency = 0 := rfl
@[simp] theorem placeCommand_draws (v : Word) (s : State) : (placeCommand v s).draws = s.draws := rfl
@[simp] theorem placeCommand_resets (v : Word) (s : State) : (placeCommand v s).resets = s.resets := rfl

/-! ## completeOk -/

@[simp] theorem completeOk_nBuf (out : Bytes) (r : Results) (s : State) : (completeOk out r s).nBuf = s.nBuf := rfl
@[simp] theorem completeOk_ie (out : Bytes) (r : Results) (s : State) : (completeOk out r s).ie = s.ie := rfl
@[simp] theorem completeOk_busy (out : Bytes) (r : Results) (s : State) : (completeOk out r s).busy = false := rfl
@[simp] theorem completeOk_done (out : Bytes) (r : Results) (s : State) : (completeOk out r s).done = true := rfl
@[simp] theorem completeOk_err (out : Bytes) (r : Results) (s : State) : (completeOk out r s).err = false := rfl
@[simp] theorem completeOk_wrBusy (out : Bytes) (r : Results) (s : State) : (completeOk out r s).wrBusy = s.wrBusy := rfl
@[simp] theorem completeOk_errcode (out : Bytes) (r : Results) (s : State) : (completeOk out r s).errcode = 0 := rfl
@[simp] theorem completeOk_cfgsub (out : Bytes) (r : Results) (s : State) : (completeOk out r s).cfgsub = 0 := rfl
@[simp] theorem completeOk_cmd (out : Bytes) (r : Results) (s : State) : (completeOk out r s).cmd = s.cmd := rfl
@[simp] theorem completeOk_inLen (out : Bytes) (r : Results) (s : State) : (completeOk out r s).inLen = s.inLen := rfl
@[simp] theorem completeOk_outLen (out : Bytes) (r : Results) (s : State) : (completeOk out r s).outLen = BitVec.ofNat 17 out.length := rfl
@[simp] theorem completeOk_res (out : Bytes) (r : Results) (s : State) : (completeOk out r s).res = r := rfl
@[simp] theorem completeOk_key0 (out : Bytes) (r : Results) (s : State) : (completeOk out r s).key0 = s.key0 := rfl
@[simp] theorem completeOk_key1 (out : Bytes) (r : Results) (s : State) : (completeOk out r s).key1 = s.key1 := rfl
@[simp] theorem completeOk_key2 (out : Bytes) (r : Results) (s : State) : (completeOk out r s).key2 = s.key2 := rfl
@[simp] theorem completeOk_key3 (out : Bytes) (r : Results) (s : State) : (completeOk out r s).key3 = s.key3 := rfl
@[simp] theorem completeOk_kw (out : Bytes) (r : Results) (s : State) : (completeOk out r s).kw = s.kw := rfl
@[simp] theorem completeOk_ibuf (out : Bytes) (r : Results) (s : State) : (completeOk out r s).ibuf = s.ibuf := rfl
@[simp] theorem completeOk_obuf (out : Bytes) (r : Results) (s : State) : (completeOk out r s).obuf = Memory.ofBytes 0 out := rfl
@[simp] theorem completeOk_seq (out : Bytes) (r : Results) (s : State) : (completeOk out r s).seq = .idle := rfl
@[simp] theorem completeOk_rstN (out : Bytes) (r : Results) (s : State) : (completeOk out r s).rstN = s.rstN := rfl
@[simp] theorem completeOk_env (out : Bytes) (r : Results) (s : State) : (completeOk out r s).env = s.env := rfl
@[simp] theorem completeOk_resp (out : Bytes) (r : Results) (s : State) : (completeOk out r s).resp = s.resp := rfl
@[simp] theorem completeOk_latency (out : Bytes) (r : Results) (s : State) : (completeOk out r s).latency = s.latency := rfl
@[simp] theorem completeOk_draws (out : Bytes) (r : Results) (s : State) : (completeOk out r s).draws = s.draws := rfl
@[simp] theorem completeOk_resets (out : Bytes) (r : Results) (s : State) : (completeOk out r s).resets = s.resets := rfl

/-! ## raiseError -/

@[simp] theorem raiseError_nBuf (k : ErrorKind) (c : CfgSub) (r : Results) (s : State) : (raiseError k c r s).nBuf = s.nBuf := rfl
@[simp] theorem raiseError_ie (k : ErrorKind) (c : CfgSub) (r : Results) (s : State) : (raiseError k c r s).ie = s.ie := rfl
@[simp] theorem raiseError_busy (k : ErrorKind) (c : CfgSub) (r : Results) (s : State) : (raiseError k c r s).busy = false := rfl
@[simp] theorem raiseError_done (k : ErrorKind) (c : CfgSub) (r : Results) (s : State) : (raiseError k c r s).done = false := rfl
@[simp] theorem raiseError_err (k : ErrorKind) (c : CfgSub) (r : Results) (s : State) : (raiseError k c r s).err = true := rfl
@[simp] theorem raiseError_wrBusy (k : ErrorKind) (c : CfgSub) (r : Results) (s : State) : (raiseError k c r s).wrBusy = s.wrBusy := rfl
@[simp] theorem raiseError_errcode (k : ErrorKind) (c : CfgSub) (r : Results) (s : State) : (raiseError k c r s).errcode = k.code := rfl
@[simp] theorem raiseError_cfgsub (k : ErrorKind) (c : CfgSub) (r : Results) (s : State) : (raiseError k c r s).cfgsub = c.code := rfl
@[simp] theorem raiseError_cmd (k : ErrorKind) (c : CfgSub) (r : Results) (s : State) : (raiseError k c r s).cmd = s.cmd := rfl
@[simp] theorem raiseError_inLen (k : ErrorKind) (c : CfgSub) (r : Results) (s : State) : (raiseError k c r s).inLen = s.inLen := rfl
@[simp] theorem raiseError_outLen (k : ErrorKind) (c : CfgSub) (r : Results) (s : State) : (raiseError k c r s).outLen = 0 := rfl
@[simp] theorem raiseError_res (k : ErrorKind) (c : CfgSub) (r : Results) (s : State) : (raiseError k c r s).res = r := rfl
@[simp] theorem raiseError_key0 (k : ErrorKind) (c : CfgSub) (r : Results) (s : State) : (raiseError k c r s).key0 = s.key0 := rfl
@[simp] theorem raiseError_key1 (k : ErrorKind) (c : CfgSub) (r : Results) (s : State) : (raiseError k c r s).key1 = s.key1 := rfl
@[simp] theorem raiseError_key2 (k : ErrorKind) (c : CfgSub) (r : Results) (s : State) : (raiseError k c r s).key2 = s.key2 := rfl
@[simp] theorem raiseError_key3 (k : ErrorKind) (c : CfgSub) (r : Results) (s : State) : (raiseError k c r s).key3 = s.key3 := rfl
@[simp] theorem raiseError_kw (k : ErrorKind) (c : CfgSub) (r : Results) (s : State) : (raiseError k c r s).kw = s.kw := rfl
@[simp] theorem raiseError_ibuf (k : ErrorKind) (c : CfgSub) (r : Results) (s : State) : (raiseError k c r s).ibuf = s.ibuf := rfl
@[simp] theorem raiseError_obuf (k : ErrorKind) (c : CfgSub) (r : Results) (s : State) : (raiseError k c r s).obuf = [] := rfl
@[simp] theorem raiseError_seq (k : ErrorKind) (c : CfgSub) (r : Results) (s : State) : (raiseError k c r s).seq = .idle := rfl
@[simp] theorem raiseError_rstN (k : ErrorKind) (c : CfgSub) (r : Results) (s : State) : (raiseError k c r s).rstN = s.rstN := rfl
@[simp] theorem raiseError_env (k : ErrorKind) (c : CfgSub) (r : Results) (s : State) : (raiseError k c r s).env = s.env := rfl
@[simp] theorem raiseError_resp (k : ErrorKind) (c : CfgSub) (r : Results) (s : State) : (raiseError k c r s).resp = s.resp := rfl
@[simp] theorem raiseError_latency (k : ErrorKind) (c : CfgSub) (r : Results) (s : State) : (raiseError k c r s).latency = s.latency := rfl
@[simp] theorem raiseError_draws (k : ErrorKind) (c : CfgSub) (r : Results) (s : State) : (raiseError k c r s).draws = s.draws := rfl
@[simp] theorem raiseError_resets (k : ErrorKind) (c : CfgSub) (r : Results) (s : State) : (raiseError k c r s).resets = s.resets := rfl

/-! ## clearError -/

@[simp] theorem clearError_nBuf (s : State) : (clearError s).nBuf = s.nBuf := rfl
@[simp] theorem clearError_ie (s : State) : (clearError s).ie = s.ie := rfl
@[simp] theorem clearError_busy (s : State) : (clearError s).busy = s.busy := rfl
@[simp] theorem clearError_done (s : State) : (clearError s).done = s.done := rfl
@[simp] theorem clearError_err (s : State) : (clearError s).err = false := rfl
@[simp] theorem clearError_wrBusy (s : State) : (clearError s).wrBusy = s.wrBusy := rfl
@[simp] theorem clearError_errcode (s : State) : (clearError s).errcode = 0 := rfl
@[simp] theorem clearError_cfgsub (s : State) : (clearError s).cfgsub = 0 := rfl
@[simp] theorem clearError_cmd (s : State) : (clearError s).cmd = s.cmd := rfl
@[simp] theorem clearError_inLen (s : State) : (clearError s).inLen = s.inLen := rfl
@[simp] theorem clearError_outLen (s : State) : (clearError s).outLen = s.outLen := rfl
@[simp] theorem clearError_res (s : State) : (clearError s).res = s.res := rfl
@[simp] theorem clearError_key0 (s : State) : (clearError s).key0 = s.key0 := rfl
@[simp] theorem clearError_key1 (s : State) : (clearError s).key1 = s.key1 := rfl
@[simp] theorem clearError_key2 (s : State) : (clearError s).key2 = s.key2 := rfl
@[simp] theorem clearError_key3 (s : State) : (clearError s).key3 = s.key3 := rfl
@[simp] theorem clearError_kw (s : State) : (clearError s).kw = s.kw := rfl
@[simp] theorem clearError_ibuf (s : State) : (clearError s).ibuf = s.ibuf := rfl
@[simp] theorem clearError_obuf (s : State) : (clearError s).obuf = s.obuf := rfl
@[simp] theorem clearError_seq (s : State) : (clearError s).seq = s.seq := rfl
@[simp] theorem clearError_rstN (s : State) : (clearError s).rstN = s.rstN := rfl
@[simp] theorem clearError_env (s : State) : (clearError s).env = s.env := rfl
@[simp] theorem clearError_resp (s : State) : (clearError s).resp = s.resp := rfl
@[simp] theorem clearError_latency (s : State) : (clearError s).latency = s.latency := rfl
@[simp] theorem clearError_draws (s : State) : (clearError s).draws = s.draws := rfl
@[simp] theorem clearError_resets (s : State) : (clearError s).resets = s.resets := rfl

/-! ## dropWrite -/

@[simp] theorem dropWrite_nBuf (s : State) : (dropWrite s).nBuf = s.nBuf := rfl
@[simp] theorem dropWrite_ie (s : State) : (dropWrite s).ie = s.ie := rfl
@[simp] theorem dropWrite_busy (s : State) : (dropWrite s).busy = s.busy := rfl
@[simp] theorem dropWrite_done (s : State) : (dropWrite s).done = s.done := rfl
@[simp] theorem dropWrite_err (s : State) : (dropWrite s).err = s.err := rfl
@[simp] theorem dropWrite_wrBusy (s : State) : (dropWrite s).wrBusy = true := rfl
@[simp] theorem dropWrite_errcode (s : State) : (dropWrite s).errcode = s.errcode := rfl
@[simp] theorem dropWrite_cfgsub (s : State) : (dropWrite s).cfgsub = s.cfgsub := rfl
@[simp] theorem dropWrite_cmd (s : State) : (dropWrite s).cmd = s.cmd := rfl
@[simp] theorem dropWrite_inLen (s : State) : (dropWrite s).inLen = s.inLen := rfl
@[simp] theorem dropWrite_outLen (s : State) : (dropWrite s).outLen = s.outLen := rfl
@[simp] theorem dropWrite_res (s : State) : (dropWrite s).res = s.res := rfl
@[simp] theorem dropWrite_key0 (s : State) : (dropWrite s).key0 = s.key0 := rfl
@[simp] theorem dropWrite_key1 (s : State) : (dropWrite s).key1 = s.key1 := rfl
@[simp] theorem dropWrite_key2 (s : State) : (dropWrite s).key2 = s.key2 := rfl
@[simp] theorem dropWrite_key3 (s : State) : (dropWrite s).key3 = s.key3 := rfl
@[simp] theorem dropWrite_kw (s : State) : (dropWrite s).kw = s.kw := rfl
@[simp] theorem dropWrite_ibuf (s : State) : (dropWrite s).ibuf = s.ibuf := rfl
@[simp] theorem dropWrite_obuf (s : State) : (dropWrite s).obuf = s.obuf := rfl
@[simp] theorem dropWrite_seq (s : State) : (dropWrite s).seq = s.seq := rfl
@[simp] theorem dropWrite_rstN (s : State) : (dropWrite s).rstN = s.rstN := rfl
@[simp] theorem dropWrite_env (s : State) : (dropWrite s).env = s.env := rfl
@[simp] theorem dropWrite_resp (s : State) : (dropWrite s).resp = s.resp := rfl
@[simp] theorem dropWrite_latency (s : State) : (dropWrite s).latency = s.latency := rfl
@[simp] theorem dropWrite_draws (s : State) : (dropWrite s).draws = s.draws := rfl
@[simp] theorem dropWrite_resets (s : State) : (dropWrite s).resets = s.resets := rfl

/-! ## clearKey -/

@[simp] theorem clearKey_nBuf (s : State) : (clearKey s).nBuf = s.nBuf := rfl
@[simp] theorem clearKey_ie (s : State) : (clearKey s).ie = s.ie := rfl
@[simp] theorem clearKey_busy (s : State) : (clearKey s).busy = s.busy := rfl
@[simp] theorem clearKey_done (s : State) : (clearKey s).done = s.done := rfl
@[simp] theorem clearKey_err (s : State) : (clearKey s).err = s.err := rfl
@[simp] theorem clearKey_wrBusy (s : State) : (clearKey s).wrBusy = s.wrBusy := rfl
@[simp] theorem clearKey_errcode (s : State) : (clearKey s).errcode = s.errcode := rfl
@[simp] theorem clearKey_cfgsub (s : State) : (clearKey s).cfgsub = s.cfgsub := rfl
@[simp] theorem clearKey_cmd (s : State) : (clearKey s).cmd = s.cmd := rfl
@[simp] theorem clearKey_inLen (s : State) : (clearKey s).inLen = s.inLen := rfl
@[simp] theorem clearKey_outLen (s : State) : (clearKey s).outLen = s.outLen := rfl
@[simp] theorem clearKey_res (s : State) : (clearKey s).res = s.res := rfl
@[simp] theorem clearKey_key0 (s : State) : (clearKey s).key0 = 0 := rfl
@[simp] theorem clearKey_key1 (s : State) : (clearKey s).key1 = 0 := rfl
@[simp] theorem clearKey_key2 (s : State) : (clearKey s).key2 = 0 := rfl
@[simp] theorem clearKey_key3 (s : State) : (clearKey s).key3 = 0 := rfl
@[simp] theorem clearKey_kw (s : State) : (clearKey s).kw = 0 := rfl
@[simp] theorem clearKey_ibuf (s : State) : (clearKey s).ibuf = s.ibuf := rfl
@[simp] theorem clearKey_obuf (s : State) : (clearKey s).obuf = s.obuf := rfl
@[simp] theorem clearKey_seq (s : State) : (clearKey s).seq = s.seq := rfl
@[simp] theorem clearKey_rstN (s : State) : (clearKey s).rstN = s.rstN := rfl
@[simp] theorem clearKey_env (s : State) : (clearKey s).env = s.env := rfl
@[simp] theorem clearKey_resp (s : State) : (clearKey s).resp = s.resp := rfl
@[simp] theorem clearKey_latency (s : State) : (clearKey s).latency = s.latency := rfl
@[simp] theorem clearKey_draws (s : State) : (clearKey s).draws = s.draws := rfl
@[simp] theorem clearKey_resets (s : State) : (clearKey s).resets = s.resets := rfl

/-! ## holdReset -/

@[simp] theorem holdReset_nBuf (s : State) : (holdReset s).nBuf = s.nBuf := rfl
@[simp] theorem holdReset_ie (s : State) : (holdReset s).ie = false := rfl
@[simp] theorem holdReset_busy (s : State) : (holdReset s).busy = false := rfl
@[simp] theorem holdReset_done (s : State) : (holdReset s).done = false := rfl
@[simp] theorem holdReset_err (s : State) : (holdReset s).err = false := rfl
@[simp] theorem holdReset_wrBusy (s : State) : (holdReset s).wrBusy = false := rfl
@[simp] theorem holdReset_errcode (s : State) : (holdReset s).errcode = 0 := rfl
@[simp] theorem holdReset_cfgsub (s : State) : (holdReset s).cfgsub = 0 := rfl
@[simp] theorem holdReset_cmd (s : State) : (holdReset s).cmd = 0 := rfl
@[simp] theorem holdReset_inLen (s : State) : (holdReset s).inLen = 0 := rfl
@[simp] theorem holdReset_outLen (s : State) : (holdReset s).outLen = 0 := rfl
@[simp] theorem holdReset_res (s : State) : (holdReset s).res = res0 := rfl
@[simp] theorem holdReset_key0 (s : State) : (holdReset s).key0 = 0 := rfl
@[simp] theorem holdReset_key1 (s : State) : (holdReset s).key1 = 0 := rfl
@[simp] theorem holdReset_key2 (s : State) : (holdReset s).key2 = 0 := rfl
@[simp] theorem holdReset_key3 (s : State) : (holdReset s).key3 = 0 := rfl
@[simp] theorem holdReset_kw (s : State) : (holdReset s).kw = 0 := rfl
@[simp] theorem holdReset_ibuf (s : State) : (holdReset s).ibuf = [] := rfl
@[simp] theorem holdReset_obuf (s : State) : (holdReset s).obuf = [] := rfl
@[simp] theorem holdReset_seq (s : State) : (holdReset s).seq = .idle := rfl
@[simp] theorem holdReset_rstN (s : State) : (holdReset s).rstN = false := rfl
@[simp] theorem holdReset_env (s : State) : (holdReset s).env = s.env := rfl
@[simp] theorem holdReset_resp (s : State) : (holdReset s).resp = s.resp := rfl
@[simp] theorem holdReset_latency (s : State) : (holdReset s).latency = 0 := rfl
@[simp] theorem holdReset_draws (s : State) : (holdReset s).draws = s.draws := rfl
@[simp] theorem holdReset_resets (s : State) : (holdReset s).resets = s.resets + 1 := rfl

/-! ## releaseReset -/

@[simp] theorem releaseReset_nBuf (s : State) : (releaseReset s).nBuf = s.nBuf := rfl
@[simp] theorem releaseReset_ie (s : State) : (releaseReset s).ie = s.ie := rfl
@[simp] theorem releaseReset_busy (s : State) : (releaseReset s).busy = s.busy := rfl
@[simp] theorem releaseReset_done (s : State) : (releaseReset s).done = s.done := rfl
@[simp] theorem releaseReset_err (s : State) : (releaseReset s).err = s.err := rfl
@[simp] theorem releaseReset_wrBusy (s : State) : (releaseReset s).wrBusy = s.wrBusy := rfl
@[simp] theorem releaseReset_errcode (s : State) : (releaseReset s).errcode = s.errcode := rfl
@[simp] theorem releaseReset_cfgsub (s : State) : (releaseReset s).cfgsub = s.cfgsub := rfl
@[simp] theorem releaseReset_cmd (s : State) : (releaseReset s).cmd = s.cmd := rfl
@[simp] theorem releaseReset_inLen (s : State) : (releaseReset s).inLen = s.inLen := rfl
@[simp] theorem releaseReset_outLen (s : State) : (releaseReset s).outLen = s.outLen := rfl
@[simp] theorem releaseReset_res (s : State) : (releaseReset s).res = s.res := rfl
@[simp] theorem releaseReset_key0 (s : State) : (releaseReset s).key0 = s.key0 := rfl
@[simp] theorem releaseReset_key1 (s : State) : (releaseReset s).key1 = s.key1 := rfl
@[simp] theorem releaseReset_key2 (s : State) : (releaseReset s).key2 = s.key2 := rfl
@[simp] theorem releaseReset_key3 (s : State) : (releaseReset s).key3 = s.key3 := rfl
@[simp] theorem releaseReset_kw (s : State) : (releaseReset s).kw = s.kw := rfl
@[simp] theorem releaseReset_ibuf (s : State) : (releaseReset s).ibuf = s.ibuf := rfl
@[simp] theorem releaseReset_obuf (s : State) : (releaseReset s).obuf = s.obuf := rfl
@[simp] theorem releaseReset_seq (s : State) : (releaseReset s).seq = s.seq := rfl
@[simp] theorem releaseReset_rstN (s : State) : (releaseReset s).rstN = true := rfl
@[simp] theorem releaseReset_env (s : State) : (releaseReset s).env = s.env := rfl
@[simp] theorem releaseReset_resp (s : State) : (releaseReset s).resp = s.resp := rfl
@[simp] theorem releaseReset_latency (s : State) : (releaseReset s).latency = s.latency := rfl
@[simp] theorem releaseReset_draws (s : State) : (releaseReset s).draws = s.draws := rfl
@[simp] theorem releaseReset_resets (s : State) : (releaseReset s).resets = s.resets := rfl

/-! ## takeEvent -/

@[simp] theorem takeEvent_nBuf (rest : List EnvEvent) (s : State) : (takeEvent rest s).nBuf = s.nBuf := rfl
@[simp] theorem takeEvent_ie (rest : List EnvEvent) (s : State) : (takeEvent rest s).ie = s.ie := rfl
@[simp] theorem takeEvent_busy (rest : List EnvEvent) (s : State) : (takeEvent rest s).busy = s.busy := rfl
@[simp] theorem takeEvent_done (rest : List EnvEvent) (s : State) : (takeEvent rest s).done = s.done := rfl
@[simp] theorem takeEvent_err (rest : List EnvEvent) (s : State) : (takeEvent rest s).err = s.err := rfl
@[simp] theorem takeEvent_wrBusy (rest : List EnvEvent) (s : State) : (takeEvent rest s).wrBusy = s.wrBusy := rfl
@[simp] theorem takeEvent_errcode (rest : List EnvEvent) (s : State) : (takeEvent rest s).errcode = s.errcode := rfl
@[simp] theorem takeEvent_cfgsub (rest : List EnvEvent) (s : State) : (takeEvent rest s).cfgsub = s.cfgsub := rfl
@[simp] theorem takeEvent_cmd (rest : List EnvEvent) (s : State) : (takeEvent rest s).cmd = s.cmd := rfl
@[simp] theorem takeEvent_inLen (rest : List EnvEvent) (s : State) : (takeEvent rest s).inLen = s.inLen := rfl
@[simp] theorem takeEvent_outLen (rest : List EnvEvent) (s : State) : (takeEvent rest s).outLen = s.outLen := rfl
@[simp] theorem takeEvent_res (rest : List EnvEvent) (s : State) : (takeEvent rest s).res = s.res := rfl
@[simp] theorem takeEvent_key0 (rest : List EnvEvent) (s : State) : (takeEvent rest s).key0 = s.key0 := rfl
@[simp] theorem takeEvent_key1 (rest : List EnvEvent) (s : State) : (takeEvent rest s).key1 = s.key1 := rfl
@[simp] theorem takeEvent_key2 (rest : List EnvEvent) (s : State) : (takeEvent rest s).key2 = s.key2 := rfl
@[simp] theorem takeEvent_key3 (rest : List EnvEvent) (s : State) : (takeEvent rest s).key3 = s.key3 := rfl
@[simp] theorem takeEvent_kw (rest : List EnvEvent) (s : State) : (takeEvent rest s).kw = s.kw := rfl
@[simp] theorem takeEvent_ibuf (rest : List EnvEvent) (s : State) : (takeEvent rest s).ibuf = s.ibuf := rfl
@[simp] theorem takeEvent_obuf (rest : List EnvEvent) (s : State) : (takeEvent rest s).obuf = s.obuf := rfl
@[simp] theorem takeEvent_seq (rest : List EnvEvent) (s : State) : (takeEvent rest s).seq = s.seq := rfl
@[simp] theorem takeEvent_rstN (rest : List EnvEvent) (s : State) : (takeEvent rest s).rstN = s.rstN := rfl
@[simp] theorem takeEvent_env (rest : List EnvEvent) (s : State) : (takeEvent rest s).env = rest := rfl
@[simp] theorem takeEvent_resp (rest : List EnvEvent) (s : State) : (takeEvent rest s).resp = s.resp := rfl
@[simp] theorem takeEvent_latency (rest : List EnvEvent) (s : State) : (takeEvent rest s).latency = s.latency - 1 := rfl
@[simp] theorem takeEvent_draws (rest : List EnvEvent) (s : State) : (takeEvent rest s).draws = s.draws := rfl
@[simp] theorem takeEvent_resets (rest : List EnvEvent) (s : State) : (takeEvent rest s).resets = s.resets := rfl

end Sys2Proof.Machine
end

