-- ==== Sys2Proof/Laws/Memory.lean ====
section
/-! SUPPORT. The laws of buffer storage: what is read after a write, and that every operation keeps the
canonical form. -/

namespace Sys2Proof.Machine

@[simp] theorem Memory.get?_nil (a : Nat) : Memory.get? [] a = none := rfl

theorem Memory.get?_cons (b : Nat) (x : Byte) (m : Memory) (a : Nat) :
    Memory.get? ((b, x) :: m) a = if a = b then some x else m.get? a := rfl

/-- A read after a write: the written cell holds the byte, and every other cell is left alone. -/
@[simp] theorem Memory.get?_set (m : Memory) (a : Nat) (x : Byte) (i : Nat) :
    (m.set a x).get? i = if i = a then some x else m.get? i := by
  induction m with
  | nil => simp [Memory.set, Memory.get?]
  | cons c m ih =>
    obtain ⟨b, y⟩ := c
    simp only [Memory.set]
    split
    · simp [Memory.get?]
    · split
      · simp only [Memory.get?]; split <;> simp_all
      · simp only [Memory.get?, ih]; split <;> split <;> simp_all

theorem Memory.mem_set {m : Memory} {a : Nat} {x : Byte} {c : Host.Cell} (h : c ∈ m.set a x) :
    c = (a, x) ∨ c ∈ m := by
  induction m with
  | nil => simpa [Memory.set] using h
  | cons d m ih =>
    obtain ⟨b, y⟩ := d
    simp only [Memory.set] at h
    split at h
    · simpa using h
    · split at h
      · rcases List.mem_cons.1 h with h | h <;> simp [h]
      · rcases List.mem_cons.1 h with h | h
        · simp [h]
        · rcases ih h with h | h <;> simp [h]

theorem Memory.wf_cons (c : Host.Cell) (m : Memory) :
    Memory.wf (c :: m) = true ↔ (∀ d ∈ m, c.1 < d.1) ∧ m.wf = true := by
  obtain ⟨a, x⟩ := c
  simp [Memory.wf]

/-- A write keeps the canonical form. -/
theorem Memory.wf_set {m : Memory} (a : Nat) (x : Byte) (h : m.wf = true) : (m.set a x).wf = true := by
  induction m with
  | nil => rfl
  | cons c m ih =>
    obtain ⟨b, y⟩ := c
    obtain ⟨hb, hm⟩ := (Memory.wf_cons _ _).1 h
    simp only [Memory.set]
    split
    · rename_i hab
      refine (Memory.wf_cons _ _).2 ⟨fun d hd => ?_, h⟩
      rcases List.mem_cons.1 hd with rfl | hd
      · exact hab
      · exact Nat.lt_trans hab (hb d hd)
    · split
      · rename_i _ hab
        subst hab
        exact (Memory.wf_cons _ _).2 ⟨hb, hm⟩
      · rename_i h1 h2
        refine (Memory.wf_cons _ _).2 ⟨fun d hd => ?_, ih hm⟩
        rcases Memory.mem_set hd with rfl | hd
        · show b < a
          omega
        · exact hb d hd

theorem Memory.inside_set {m : Memory} {n a : Nat} (x : Byte) (ha : a < n) (h : m.inside n = true) :
    (m.set a x).inside n = true := by
  simp only [Memory.inside, List.all_eq_true, decide_eq_true_eq] at h ⊢
  intro c hc
  rcases Memory.mem_set hc with rfl | hc
  · exact ha
  · exact h c hc

theorem Memory.mem_ofBytes {a : Nat} {B : Bytes} {c : Host.Cell} (h : c ∈ Memory.ofBytes a B) :
    a ≤ c.1 ∧ c.1 < a + B.length := by
  induction B generalizing a with
  | nil => simp [Memory.ofBytes] at h
  | cons x B ih =>
    rcases List.mem_cons.1 h with rfl | h
    · simp
    · have := ih h
      simp only [List.length_cons]
      omega

/-- The cells of a byte sequence hold its bytes, and no cell beside them is listed. -/
theorem Memory.get?_ofBytes (a : Nat) (B : Bytes) (i : Nat) :
    (Memory.ofBytes a B).get? i = if a ≤ i then B[i - a]? else none := by
  induction B generalizing a with
  | nil => simp [Memory.ofBytes]
  | cons x B ih =>
    simp only [Memory.ofBytes, Memory.get?, ih]
    rcases Nat.lt_trichotomy i a with h | rfl | h
    · rw [if_neg (by omega), if_neg (by omega), if_neg (by omega)]
    · simp
    · rw [if_neg (by omega), if_pos (by omega), if_pos (by omega),
        show i - a = (i - (a + 1)) + 1 by omega, List.getElem?_cons_succ]

theorem Memory.wf_ofBytes (a : Nat) (B : Bytes) : (Memory.ofBytes a B).wf = true := by
  induction B generalizing a with
  | nil => rfl
  | cons x B ih =>
    refine (Memory.wf_cons _ _).2 ⟨fun d hd => ?_, ih _⟩
    have := Memory.mem_ofBytes hd
    simp only
    omega

theorem Memory.inside_ofBytes {n a : Nat} {B : Bytes} (h : a + B.length ≤ n) :
    (Memory.ofBytes a B).inside n = true := by
  simp only [Memory.inside, List.all_eq_true, decide_eq_true_eq]
  intro c hc
  have := Memory.mem_ofBytes hc
  omega

/-- The byte k of a value, as a bus access of several bytes stores it (R77). -/
theorem Memory.get?_writeLE (m : Memory) (i n : Nat) (v : Word) (k : Nat) :
    (writeLE m i n v).get? k =
      if i ≤ k ∧ k < i + n then some ((v >>> (8 * (k - i))).setWidth 8) else m.get? k := by
  induction n generalizing m i v with
  | zero => simp [writeLE]
  | succ n ih =>
    simp only [writeLE, ih, Memory.get?_set]
    rcases Nat.lt_trichotomy k i with h | rfl | h
    · rw [if_neg (by omega), if_neg (by omega), if_neg (by omega)]
    · simp
    · by_cases hk : k < i + (n + 1)
      · rw [if_pos (by omega), if_pos (by omega), ← BitVec.shiftRight_add,
          show 8 + 8 * (k - (i + 1)) = 8 * (k - i) by omega]
      · rw [if_neg (by omega), if_neg (by omega), if_neg (by omega)]

theorem Memory.wf_writeLE {m : Memory} (i n : Nat) (v : Word) (h : m.wf = true) :
    (writeLE m i n v).wf = true := by
  induction n generalizing m i v with
  | zero => exact h
  | succ n ih => exact ih _ _ (Memory.wf_set _ _ h)

theorem Memory.inside_writeLE {m : Memory} {N i n : Nat} (v : Word) (hi : i + n ≤ N)
    (h : m.inside N = true) : (writeLE m i n v).inside N = true := by
  induction n generalizing m i v with
  | zero => exact h
  | succ n ih => exact ih _ (by omega) (Memory.inside_set _ (by omega) h)

@[simp] theorem length_operand (s : State) : (operand s).length = s.inLen.toNat := by simp [operand]

theorem operand_getElem? (s : State) (i : Nat) :
    (operand s)[i]? = if i < s.inLen.toNat then some (ibufByte s i) else none := by
  split
  · rename_i h
    simp [operand, List.getElem?_range h]
  · rename_i h
    exact List.getElem?_eq_none (by simpa using h)

/-- What the host reads of OBUF after a completion with success, for any length. -/
theorem obufRead_completeOk_mod (out : Bytes) (r : Results) (s : State) (i : Nat) :
    obufRead (completeOk out r s) i = if i < out.length % 2 ^ 17 then out.getD i 0 else 0 := by
  unfold obufRead obufByte
  show (if i < (BitVec.ofNat 17 out.length).toNat then
      ((Memory.ofBytes 0 out).get? i).getD _ else 0) = _
  rw [BitVec.toNat_ofNat, Memory.get?_ofBytes, if_pos (Nat.zero_le i), Nat.sub_zero]
  split
  · rename_i hi
    have hi : i < out.length := Nat.lt_of_lt_of_le hi (Nat.mod_le _ _)
    simp [List.getD_eq_getElem?_getD, List.getElem?_eq_getElem hi]
  · rfl

/-- What the host reads of OBUF after a completion with success. -/
theorem obufRead_completeOk (out : Bytes) (r : Results) (s : State) (h : out.length < 2 ^ 17) (i : Nat) :
    obufRead (completeOk out r s) i = out.getD i 0 := by
  rw [obufRead_completeOk_mod, Nat.mod_eq_of_lt h]
  split
  · rfl
  · rename_i hi
    simp [List.getD_eq_getElem?_getD, List.getElem?_eq_none (Nat.le_of_not_lt hi)]

/-- No OBUF cell can be read after an error (R252). -/
theorem noOutput_raiseError (k : ErrorKind) (c : CfgSub) (r : Results) (s : State) :
    NoOutput (raiseError k c r s) :=
  ⟨rfl, fun i => by simp [obufRead]⟩

end Sys2Proof.Machine
end

