-- ==== Sys2Proof/Laws/Ops.lean ====
section
/-! SUPPORT. For each shared operation, once, everything it can do. -/

namespace Sys2Proof.Machine

/-! ## Writes of the register page -/

theorem whenIdle_busy {s : State} (w : State → State) (h : s.busy = true) :
    whenIdle w s = dropWrite s := by simp [whenIdle, h]

theorem whenIdle_idle {s : State} (w : State → State) (h : s.busy = false) : whenIdle w s = w s := by
  simp [whenIdle, h]

/-- A write of something the engine owns is dropped or done. -/
theorem whenIdle_cases (w : State → State) (s : State) :
    (s.busy = true ∧ whenIdle w s = dropWrite s) ∨ (s.busy = false ∧ whenIdle w s = w s) := by
  cases h : s.busy
  · exact .inr ⟨rfl, whenIdle_idle w h⟩
  · exact .inl ⟨rfl, whenIdle_busy w h⟩

/-- A write of STATUS, field by field (R32). -/
theorem writeStatus_eq (v : Word) (s : State) :
    writeStatus v s = { s with
      done := s.done && !v.getLsbD 1
      err := s.err && !v.getLsbD 2
      errcode := if v.getLsbD 2 then 0 else s.errcode
      cfgsub := if v.getLsbD 2 then 0 else s.cfgsub
      wrBusy := s.wrBusy && !v.getLsbD 4 } := by
  unfold writeStatus clearError
  generalize v.getLsbD 1 = d
  generalize v.getLsbD 2 = e
  generalize v.getLsbD 4 = w
  cases d <;> cases e <;> cases w <;> simp

/-- A write of CTRL, field by field (R25). -/
theorem writeCtrl_eq (v : Word) (s : State) :
    writeCtrl v s =
      if v.getLsbD 1 then
        if s.busy then { s with ie := v.getLsbD 0, wrBusy := true }
        else { s with ie := v.getLsbD 0, key0 := 0, key1 := 0, key2 := 0, key3 := 0, kw := 0 }
      else { s with ie := v.getLsbD 0 } := by
  unfold writeCtrl whenIdle clearKey dropWrite
  generalize v.getLsbD 1 = c
  generalize v.getLsbD 0 = e
  cases c <;> cases hb : s.busy <;> simp

/-! ## The completion -/

/-- The outcome of a command: the common checks, then its execution function (R132). -/
def outcome (i : Instr) (s : State) : CmdOutcome :=
  match i with
  | .unpack dc rh => checked true (fun B K => unpackExec dc rh B K) s
  | .reverse => checked false (fun B _ => reverseExec B) s
  | .ecbdec => checked true (fun B K => ecbdecExec B K) s
  | .parse => checked false (fun B _ => parseExec B) s
  | .verify => checked false (fun B _ => verifyExec B) s
  | .crc16 => checked false (fun B _ => crc16Exec B) s
  | .strip => checked false (fun B _ => stripExec B) s

/-- Every command's step is the commit of its outcome. -/
theorem exec_eq_complete (i : Instr) (s : State) : exec i s = .next (complete (outcome i s) s) := by
  cases i <;> rfl

/-- What the common checks can answer: one of their two errors, or the command's own outcome. -/
theorem checked_cases (k : Bool) (body : Bytes → Bytes → CmdOutcome) (s : State) :
    (s.nBuf < s.inLen.toNat ∧ checked k body s = .err .config .lengthRange res0) ∨
    (s.inLen.toNat ≤ s.nBuf ∧ k = true ∧ keyValid s = false ∧
      checked k body s = .err .config .keyNotLoaded res0) ∨
    (s.inLen.toNat ≤ s.nBuf ∧ (k = true → keyValid s = true) ∧
      checked k body s = body (operand s) (keyBytes s)) := by
  unfold checked
  by_cases hn : s.inLen.toNat > s.nBuf
  · exact .inl ⟨hn, if_pos hn⟩
  · rw [if_neg hn]
    cases k <;> cases hk : keyValid s <;> simp <;> omega

theorem checked_body {k : Bool} {s : State} (body : Bytes → Bytes → CmdOutcome)
    (hn : s.inLen.toNat ≤ s.nBuf) (hk : k = true → keyValid s = true) :
    checked k body s = body (operand s) (keyBytes s) := by
  rcases checked_cases k body s with h | h | h
  · omega
  · simp [hk h.2.1] at h
  · exact h.2.2

theorem keyValid_iff (s : State) : keyValid s = true ↔ s.kw = 0b1111 := by
  have : ∀ n < 16, (((BitVec.ofNat 4 n).getLsbD 0 && (BitVec.ofNat 4 n).getLsbD 1 &&
      (BitVec.ofNat 4 n).getLsbD 2 && (BitVec.ofNat 4 n).getLsbD 3) = true ↔
      BitVec.ofNat 4 n = 0b1111) := by decide
  simpa [keyValid] using this s.kw.toNat s.kw.isLt

/-- A completion changes the results of the command alone (R139). -/
theorem complete_frame (o : CmdOutcome) (s : State) : CommandFrame s (complete o s) := by
  cases o <;> simp [CommandFrame, complete, ibufByte]

/-- A completion ends BUSY with exactly one of DONE and ERR (R19). -/
theorem complete_ends (o : CmdOutcome) (s : State) :
    (complete o s).busy = false ∧ (complete o s).seq = .idle ∧
      (complete o s).done = !(complete o s).err := by
  cases o <;> simp [complete]

/-! ## Transactions -/

/-- A transaction is a fault of the host program, or it is answered and the block is in the state the
access leaves; while `rst_n` is 0 nothing but the response and the count of draws changes. -/
theorem transact_cases (t : Txn) (s : State) :
    (s.rstN = true ∧ (portAccess t s).1 = .busError ∧ transact t s = .fault t.busFault) ∨
    (s.rstN = true ∧ (portAccess t s).1 ≠ .busError ∧
      transact t s = .next { (portAccess t s).2 with resp := some (portAccess t s).1 }) ∨
    (s.rstN = false ∧
      transact t s =
        .next { s with resp := some (Config.heldResponse s.draws), draws := s.draws + 1 }) := by
  cases hr : s.rstN
  · simp [transact, hr]
  · simp only [transact, hr, if_true, true_and]
    cases h : portAccess t s with
    | mk r s' => cases r <;> simp

/-- Everything that an access can do to the block. -/
theorem portAccess_cases (t : Txn) (s : State) :
    (portAccess t s = (.busError, s)) ∨
    (∃ addr n tgt, t = .read addr n ∧ resolve s n addr = some tgt ∧
      portAccess t s = (.data (readTarget n tgt s).1, (readTarget n tgt s).2)) ∨
    (∃ addr n v tgt, t = .write addr n v ∧ resolve s n addr = some tgt ∧
      portAccess t s = (.ok, writeTarget n tgt v s)) := by
  cases t with
  | read addr n =>
    cases h : resolve s n addr with
    | none => exact .inl (by simp [portAccess, h])
    | some tgt => exact .inr (.inl ⟨addr, n, tgt, rfl, h, by simp [portAccess, h]⟩)
  | write addr n v =>
    cases h : resolve s n addr with
    | none => exact .inl (by simp [portAccess, h])
    | some tgt => exact .inr (.inr ⟨addr, n, v, tgt, rfl, h, by simp [portAccess, h]⟩)

/-- A read changes at most the count of draws (R82). -/
theorem readTarget_state (n : Width) (tgt : Target) (s : State) :
    (readTarget n tgt s).2 = s ∨
      (s.busy = true ∧ (readTarget n tgt s).2 = { s with draws := s.draws + 1 }) := by
  cases tgt with
  | reg r =>
    simp only [readTarget, readReg]
    cases hb : s.busy <;> cases hr : r.isResult <;> simp
  | ibuf i => exact .inl rfl
  | obuf i => exact .inl rfl

/-! ## Events and steps -/

/-- `wait` and `readout` are a read of the port and a change of the pending events. -/
theorem envStep_next {e : EnvEvent} {s t : State} (h : envStep e s = .next t) :
    (e = .rstLow ∧ t = holdReset s) ∨ (e = .rstHigh ∧ t = releaseReset s) ∨
    (∃ tx, e = .access tx ∧ transact tx s = .next t) ∨
    (∃ r s' env, (e = .wait ∧ r = Reg.status ∨ e = .readout ∧ r = Reg.outLen) ∧
      transact (.read (.offset r.offset) .word) s = .next s' ∧ t = { s' with env := env }) := by
  cases e with
  | access tx => exact .inr (.inr (.inl ⟨tx, rfl, h⟩))
  | rstLow => exact .inl ⟨rfl, by simpa [envStep] using h.symm⟩
  | rstHigh => exact .inr (.inl ⟨rfl, by simpa [envStep] using h.symm⟩)
  | wait =>
    simp only [envStep] at h
    split at h
    · rename_i s' hs
      refine .inr (.inr (.inr ⟨.status, s', t.env, .inl ⟨rfl, rfl⟩, hs, ?_⟩))
      simp only [Host.Outcome.next.injEq] at h
      subst h
      split <;> rfl
    · cases h
    · cases h
  | readout =>
    simp only [envStep] at h
    split at h
    · rename_i s' hs
      refine .inr (.inr (.inr ⟨.outLen, s', t.env, .inr ⟨rfl, rfl⟩, hs, ?_⟩))
      simp only [Host.Outcome.next.injEq] at h
      subst h
      rfl
    · cases h
    · cases h

/-- Whose turn it is, in the words of statements. -/
theorem turn_cases (s : State) :
    (s.EngineMoves ∧ turn s = .engine) ∨
    (∃ e rest, s.HostMoves e rest ∧ turn s = .env e rest) ∨
    (s.env = [] ∧ (s.rstN = false ∨ s.busy = false) ∧ turn s = .idle) := by
  unfold turn State.EngineMoves State.HostMoves
  cases he : s.env with
  | nil => cases hr : s.rstN <;> cases hb : s.busy <;> simp
  | cons e rest =>
    cases hr : s.rstN <;> cases hb : s.busy <;> simp
    by_cases hl : s.latency = 0 <;> simp [hl]

theorem turn_engine {s : State} (h : s.EngineMoves) : turn s = .engine := by
  obtain ⟨hr, hb, he⟩ := h
  unfold turn
  cases hs : s.env with
  | nil => simp [hr, hb]
  | cons e rest =>
    have : s.latency = 0 := by simpa [hs] using he
    simp [hr, hb, this]

theorem turn_host {s : State} {e : EnvEvent} {rest : List EnvEvent} (h : s.HostMoves e rest) :
    turn s = .env e rest := by
  obtain ⟨he, h⟩ := h
  unfold turn
  rw [he]
  rcases h with h | h | h <;> simp [h]

theorem step_engine {s : State} (h : s.EngineMoves) :
    step s = match decode s.cmd with
      | .ok i => exec i s
      | .error _ => .next (completeIllegal s) := by
  cases hd : decode s.cmd <;> simp [step, turn_engine h, hd]

theorem step_host {s : State} {e : EnvEvent} {rest : List EnvEvent} (h : s.HostMoves e rest) :
    step s = envStep e (takeEvent rest s) := by
  simp [step, turn_host h]

/-- Everything a step can do: the completion of an outcome, an event of the outside world, or nothing. -/
theorem step_next {s t : State} (h : step s = .next t) :
    (s.EngineMoves ∧ ∃ o, t = complete o s ∧
      ((∃ i, decode s.cmd = .ok i ∧ o = outcome i s) ∨
        (∃ e, decode s.cmd = .error e ∧ o = .err .config .illegalCmd res0))) ∨
    (∃ e rest, s.HostMoves e rest ∧ envStep e (takeEvent rest s) = .next t) ∨
    (s.env = [] ∧ (s.rstN = false ∨ s.busy = false) ∧ t = s) := by
  rcases turn_cases s with ⟨hm, ht⟩ | ⟨e, rest, hm, ht⟩ | ⟨he, hi, ht⟩
  · refine .inl ⟨hm, ?_⟩
    rw [step_engine hm] at h
    split at h
    · rename_i i hd
      rw [exec_eq_complete] at h
      exact ⟨_, (Host.Outcome.next.inj h).symm, .inl ⟨i, hd, rfl⟩⟩
    · rename_i e hd
      exact ⟨.err .config .illegalCmd res0, (Host.Outcome.next.inj h).symm, .inr ⟨e, hd, rfl⟩⟩
  · exact .inr (.inl ⟨e, rest, hm, by rwa [step_host hm] at h⟩)
  · refine .inr (.inr ⟨he, hi, ?_⟩)
    simpa [step, ht] using h.symm

end Sys2Proof.Machine
end

