-- ==== Sys2Proof/Laws/Aes.lean ====
section
/-! SUPPORT. The shapes of the cipher: lengths of blocks and key words, cells of a state, the linearity of
the field product, and the lengths of the ECB and pipeline functions. -/

namespace Sys2Proof.Machine.Aes

/-! ## Cells and lengths -/

@[simp] theorem length_ofCells (f : Nat → Nat → Byte) : (ofCells f).length = 16 := by simp [ofCells]

theorem cell_ofCells (f : Nat → Nat → Byte) {r c : Nat} (hr : r < 4) (hc : c < 4) :
    cell (ofCells f) r c = f r c := by
  have hj : r + 4 * c < 16 := by omega
  simp only [cell, ofCells, List.getD_eq_getElem?_getD, List.getElem?_map, List.getElem?_range hj,
    Option.map_some, Option.getD_some]
  rw [show (r + 4 * c) % 4 = r by omega, show (r + 4 * c) / 4 = c by omega]

theorem ofCells_cell {s : Block} (h : s.length = 16) : ofCells (cell s) = s := by
  apply List.ext_getElem? fun j => ?_
  by_cases hj : j < 16
  · rw [ofCells, List.getElem?_map, List.getElem?_range hj, Option.map_some, cell,
      List.getD_eq_getElem?_getD, show j % 4 + 4 * (j / 4) = j by omega,
      List.getElem?_eq_getElem (by omega), Option.getD_some]
  · rw [List.getElem?_eq_none (by simp; omega), List.getElem?_eq_none (by omega)]

/-- Two states with the same cells are the same block. -/
theorem ofCells_congr {f g : Nat → Nat → Byte} (h : ∀ r < 4, ∀ c < 4, f r c = g r c) :
    ofCells f = ofCells g := by
  refine List.map_congr_left fun j hj => ?_
  have : j < 16 := List.mem_range.1 hj
  exact h _ (by omega) _ (by omega)

@[simp] theorem length_invShiftRows (s : Block) : (invShiftRows s).length = 16 := length_ofCells _
@[simp] theorem length_invMixColumns (s : Block) : (invMixColumns s).length = 16 := length_ofCells _
@[simp] theorem length_shiftRows (s : Block) : (shiftRows s).length = 16 := length_ofCells _
@[simp] theorem length_mixColumns (s : Block) : (mixColumns s).length = 16 := length_ofCells _
@[simp] theorem length_subBytes (s : Block) : (subBytes s).length = s.length := by simp [subBytes]
@[simp] theorem length_invSubBytes (s : Block) : (invSubBytes s).length = s.length := by
  simp [invSubBytes]

@[simp] theorem length_xorBytes (a b : Bytes) : (xorBytes a b).length = min a.length b.length := by
  simp [xorBytes]

@[simp] theorem length_addRoundKey (s rk : Block) : (addRoundKey s rk).length = min s.length rk.length :=
  length_xorBytes s rk

theorem xorBytes_self_cancel {a b : Bytes} (h : a.length = b.length) : xorBytes (xorBytes a b) b = a := by
  induction a generalizing b with
  | nil => rfl
  | cons x a ih =>
    cases b with
    | nil => simp at h
    | cons y b =>
      simp only [xorBytes, List.zipWith_cons_cons, BitVec.xor_assoc, BitVec.xor_self, BitVec.xor_zero]
      exact congrArg (x :: ·) (ih (by simpa using h))

/-! ## The key schedule -/

theorem length_expandWords (n : Nat) (w : List Bytes) : (expandWords n w).length = w.length + n := by
  induction n generalizing w with
  | zero => rfl
  | succ n ih => simp [expandWords, ih]; omega

/-- A word of the schedule, once there, stays. -/
theorem expandWords_getD {n : Nat} {w : List Bytes} {i : Nat} (h : i < w.length) :
    (expandWords n w).getD i [] = w.getD i [] := by
  induction n generalizing w with
  | zero => rfl
  | succ n ih =>
    rw [expandWords, ih (by simp; omega), List.getD_eq_getElem?_getD, List.getD_eq_getElem?_getD,
      List.getElem?_append_left h]

theorem length_nextWord {w : List Bytes} (hw : 4 ≤ w.length) (h : ∀ i < w.length, (w.getD i []).length = 4) :
    (nextWord w).length = 4 := by
  have h1 := h (w.length - 1) (by omega)
  have h4 := h (w.length - 4) (by omega)
  simp only [nextWord]
  split <;> simp [subWord, rotWord, rcon, -List.getD_eq_getElem?_getD, h1, h4]

/-- Every word of the schedule has 4 bytes. -/
theorem length_expandWords_word {n : Nat} {w : List Bytes} (hw : 4 ≤ w.length)
    (h : ∀ i < w.length, (w.getD i []).length = 4) :
    ∀ i < w.length + n, ((expandWords n w).getD i []).length = 4 := by
  induction n generalizing w with
  | zero => exact h
  | succ n ih =>
    intro i hi
    refine ih (by simp; omega) (fun j hj => ?_) i (by simp; omega)
    simp only [List.length_append, List.length_singleton] at hj
    rw [List.getD_eq_getElem?_getD]
    rcases Nat.lt_or_ge j w.length with hlt | hge
    · rw [List.getElem?_append_left hlt, ← List.getD_eq_getElem?_getD]
      exact h j hlt
    · rw [List.getElem?_append_right hge, show j - w.length = 0 by omega]
      exact length_nextWord hw h

theorem length_keyExpansion_word (K : Bytes) {i : Nat} (hi : i < 44) :
    ((keyExpansion K).getD i []).length = 4 :=
  length_expandWords_word (n := 40) (by simp) (fun j hj => by
    have : j = 0 ∨ j = 1 ∨ j = 2 ∨ j = 3 := by simp at hj; omega
    rcases this with rfl | rfl | rfl | rfl <;> rfl) i (by simpa using hi)

theorem length_roundKey (K : Bytes) {r : Nat} (hr : r ≤ 10) :
    (roundKey (keyExpansion K) r).length = 16 := by
  have h := fun j (hj : j < 4) => length_keyExpansion_word K (i := 4 * r + j) (by omega)
  have h0 := h 0 (by omega)
  have h1 := h 1 (by omega)
  have h2 := h 2 (by omega)
  have h3 := h 3 (by omega)
  rw [Nat.add_zero] at h0
  simp [roundKey, -List.getD_eq_getElem?_getD, h0, h1, h2, h3]

/-! ## Decryption keeps lengths (R181, R237) -/

@[simp] theorem length_aesDec (K C : Bytes) : (aesDec K C).length = 16 := by
  simp [aesDec, decBlock, length_roundKey]

@[simp] theorem length_aesEnc (K P : Bytes) : (aesEnc K P).length = 16 := by
  simp [aesEnc, encBlock, length_roundKey]

theorem length_ecbDecBlocks (K : Bytes) (n : Nat) (B : Bytes) :
    (ecbDecBlocks K n B).length = 16 * n := by
  induction n generalizing B with
  | zero => rfl
  | succ n ih => simp [ecbDecBlocks, ih]; omega

theorem length_ecbDec (K : Bytes) {B : Bytes} (h : B.length % 16 = 0) :
    (ecbDec K B).length = B.length := by
  rw [ecbDec, length_ecbDecBlocks]
  simp only [Config.blockBytes]
  omega

theorem misaligned_eq_false_iff (B : Bytes) :
    misaligned B = false ↔ 0 < B.length ∧ B.length % 16 = 0 := by
  simp [misaligned, List.length_pos_iff]

/-! ## The field product -/

theorem xtime_xor (a b : Byte) : xtime (a ^^^ b) = xtime a ^^^ xtime b := by
  simp only [xtime, BitVec.getLsbD_xor, BitVec.shiftLeft_xor_distrib]
  generalize a.getLsbD 7 = p
  generalize b.getLsbD 7 = q
  have hz : ∀ x : Byte, x ^^^ 0x00 = x := fun x => BitVec.xor_zero
  have hc : ∀ x y z : Byte, x ^^^ z ^^^ (y ^^^ z) = x ^^^ y := fun x y z => by
    rw [show x ^^^ z ^^^ (y ^^^ z) = x ^^^ y ^^^ (z ^^^ z) by ac_rfl, BitVec.xor_self, BitVec.xor_zero]
  cases p <;> cases q <;> simp only [Bool.xor_false, Bool.xor_true, Bool.not_false, Bool.not_true,
    if_true, if_false, Bool.false_eq_true, hz, hc] <;> ac_rfl

/-- The product is linear in its first factor. -/
theorem gmul_xor (a b k : Byte) : gmul (a ^^^ b) k = gmul a k ^^^ gmul b k := by
  have h : ∀ n a b k, gmulBits n (a ^^^ b) k = gmulBits n a k ^^^ gmulBits n b k := by
    intro n
    induction n with
    | zero => intros; simp [gmulBits]
    | succ n ih =>
      intro a b k
      simp only [gmulBits, xtime_xor, ih]
      split
      · ac_rfl
      · simp
  exact h 8 a b k

end Sys2Proof.Machine.Aes

namespace Sys2Proof.Machine

theorem length_decrypt (K : Bytes) {C : Bytes} (h : C.length % 16 = 0) :
    (decrypt K C).length = C.length := by
  simp [decrypt, rev, Aes.length_ecbDec, h]

end Sys2Proof.Machine
end

