-- ==== Sys2Proof/Laws/PerInstr.lean ====
section
/-! SUPPORT. Statements made per command: the encoding of a command is a legal command word, and decoding
gives the command back (R105, R107). -/

namespace Sys2Proof.Laws

/-- The word of a well-formed command is legal, its reserved bits are 0, and it decodes to the command. -/
def EncodingLegal.Statement (i : Instr) : Prop :=
  i.wellFormed = true →
    legal (encode i) = true ∧ (encode i).toNat < 1024 ∧ decode (encode i) = .ok i

theorem EncodingLegal.unpack (dc rh : Bool) : EncodingLegal.Statement (.unpack dc rh) := fun _ => by
  cases dc <;> cases rh <;> decide
theorem EncodingLegal.reverse : EncodingLegal.Statement .reverse := fun _ => by decide
theorem EncodingLegal.ecbdec : EncodingLegal.Statement .ecbdec := fun _ => by decide
theorem EncodingLegal.parse : EncodingLegal.Statement .parse := fun _ => by decide
theorem EncodingLegal.verify : EncodingLegal.Statement .verify := fun _ => by decide
theorem EncodingLegal.crc16 : EncodingLegal.Statement .crc16 := fun _ => by decide
theorem EncodingLegal.strip : EncodingLegal.Statement .strip := fun _ => by decide

end Sys2Proof.Laws
end

