-- ==== Sys2Proof/Tests/Slice0.lean ====
section
/-! SUPPORT. The model's own tests: the checks of WellFormed on ill-formed terms, command words written out
from the fields of R100, the vectors of 95_test_vectors.md one step each, and for every statement with
hypotheses a state and operands that meet them all. -/

namespace Sys2Proof.Tests

open Sys2Proof.Machine

/-! ## Ill-formed terms, one for each check (R104, R101, R102, R103, R8) -/

theorem test_wellFormed_reserved : legal 0x00000401 = false ∧ reservedBitsZero 0x80000001 = false := by decide
theorem test_wellFormed_opcode : legal 0x00000000 = false ∧ opcodeListed 0x00000008 = false := by decide
theorem test_wellFormed_flags : legal 0x00000102 = false ∧ flagsAllowed 0x00000206 = false := by decide
theorem test_wellFormed_nBuf :
    nBufLegal 16 = false ∧ nBufLegal 40 = false ∧ nBufLegal 65552 = false ∧ nBufLegal 65536 = true := by decide
theorem test_wellFormed_instr : Instr.wellFormed (.unpack true true) = true := by decide

/-! ## Command words (R100: OP in bits 7-0, DC bit 8, RH bit 9; R106 for OP) -/

theorem test_decode_unpack : decode 0b1100000001 = .ok (.unpack true true) := by decide
theorem test_decode_unpack_plain : decode 0b0000000001 = .ok (.unpack false false) := by decide
theorem test_decode_reverse : decode 0b00000010 = .ok .reverse := by decide
theorem test_decode_ecbdec : decode 0b00000011 = .ok .ecbdec := by decide
theorem test_decode_parse : decode 0b00000100 = .ok .parse := by decide
theorem test_decode_verify : decode 0b00000101 = .ok .verify := by decide
theorem test_decode_crc16 : decode 0b00000110 = .ok .crc16 := by decide
theorem test_decode_strip : decode 0b00000111 = .ok .strip := by decide
theorem test_decode_ff : decode 0x000000FF = .error .illegalOp := by decide
theorem test_decodeTableWord : decodeTableWord 32 0x00000301 = some (.unpack true true) := by decide

/-! ## One step each, against 95_test_vectors.md -/

/-- The block in the reference configuration with the word w accepted on the operand B. -/
def running (w : Word) (B : Bytes) : State :=
  placeCommand w
    { State.reset with ibuf := Memory.ofBytes 0 B, inLen := BitVec.ofNat 32 B.length }

/-- The same with the key K0 = 00 01 ... 0f loaded. -/
def runningKeyed (w : Word) (B : Bytes) : State :=
  { running w B with
    key0 := 0x03020100, key1 := 0x07060504, key2 := 0x0b0a0908, key3 := 0x0f0e0d0c, kw := 0b1111 }

/-- STATUS, the six results and the output bytes after one step; nothing after a stop. -/
def seen (s : State) : Option (Word × Results × Bytes) :=
  match step s with
  | .next t => some (statusWord t, t.res, (List.range t.outLen.toNat).map (obufRead t))
  | .fault _ => none
  | .refused _ => none

/-- The 34-byte container U1. -/
def u1 : Bytes :=
  [0x10, 0x00, 0xee, 0x42, 0x5f, 0xa1, 0x13, 0x8a, 0x23, 0x02, 0x68, 0x74, 0x43, 0x7c, 0x60, 0x7b, 0x92,
   0xde, 0x61, 0xb0, 0x4d, 0x2d, 0x31, 0x66, 0xe9, 0x1a, 0x0e, 0x6c, 0x16, 0xca, 0xe8, 0xbb, 0xc0, 0xf6]

/-- The frame of PA-1. -/
def frame1 : Bytes := [0x02, 0x01, 0x04, 0x00, 0x03, 0x0d, 0, 0, 0, 0, 0, 0, 0, 0, 0, 0, 1, 2, 3, 4]

theorem test_reverse_RV3 : seen (running 2 [1, 2, 3, 4, 5]) = some (0x2, res0, [5, 4, 3, 2, 1]) := by decide
theorem test_strip_ST1 :
    seen (running 7 ((List.range 20).map (BitVec.ofNat 8))) =
      some (0x2, res0, [0x10, 0x11, 0x12, 0x13]) := by decide +kernel
theorem test_strip_ST4 : seen (running 7 (List.replicate 15 0)) = some (0x404, res0, []) := by decide +kernel
theorem test_parse_PA1 :
    seen (running 4 frame1) = some (0x2, ⟨0, 0x0102, 0x0004, 0x0D03, 0, 4⟩, []) := by decide +kernel
theorem test_parse_PA4 :
    seen (running 4 (List.replicate 6 0xff ++ List.replicate 10 0xaa)) =
      some (0x2, ⟨0, 0xFFFF, 0xFFFF, 0xFFFF, 0, 0⟩, []) := by decide +kernel
theorem test_verify_VE2 :
    seen (running 5 (frame1.set 19 5)) =
      some (0x504, ⟨0, 0x0102, 0x0004, 0x0D03, 0x1D22, 4⟩, []) := by decide +kernel
theorem test_verify_VE1 :
    seen (running 5 frame1) =
      some (0x2, ⟨0, 0x0102, 0x0004, 0x0D03, 0x0D03, 4⟩, []) := by decide +kernel
theorem test_crc16_CR8 :
    seen (running 6 [0x31, 0x32, 0x33, 0x34, 0x35, 0x36, 0x37, 0x38, 0x39]) =
      some (0x2, ⟨0, 0, 0, 0, 0x31C3, 0⟩, []) := by decide +kernel
theorem test_ecbdec_EC5 :
    seen (runningKeyed 3 (List.replicate 16 0)) =
      some (0xA, res0, [0x7b, 0x1d, 0x29, 0xa1, 0x6c, 0xf8, 0xcc, 0xab,
        0x84, 0xf0, 0xb8, 0xa5, 0x98, 0xe4, 0x2f, 0xa6]) := by decide +kernel
theorem test_ecbdec_EC10 : seen (running 3 (List.replicate 16 0)) = some (0x2104, res0, []) := by decide +kernel
theorem test_unpack_UN2 :
    seen (runningKeyed 0x201 u1) =
      some (0xA, ⟨0x0010, 0x0102, 0x0010, 0x146C, 0x146C, 16⟩,
        [0x10, 0x11, 0x12, 0x13, 0x14, 0x15, 0x16, 0x17, 0x18, 0x19, 0x1a, 0x1b, 0x1c, 0x1d, 0x1e, 0x1f]) := by
  decide +kernel
theorem test_unpack_UN7 :
    seen (runningKeyed 0x001 (u1.set 33 0xf7)) =
      some (0x50C, ⟨0x0010, 0x0102, 0x0010, 0x146C, 0x85DD, 16⟩, []) := by decide +kernel
theorem test_illegal_CM7 : seen (running 0x80000001 [1, 2, 3, 4]) = some (0x1104, res0, []) := by decide

/-- R79: `MemWrite(0x10000, 4, 0x00100203)` followed by `MemRead(0x10002, 2)` returns 0x0010. -/
theorem test_mixed_widths :
    (portAccess (.read (.offset 0x10002) .half)
      (portAccess (.write (.offset 0x10000) .word 0x00100203) State.reset).2).1 = .data 0x0010 := by
  decide +kernel
theorem test_bus_error_narrow_register :
    (portAccess (.read (.offset 0x00C) .half) State.reset).1 = .busError := by decide

/-! ## What meets the hypotheses of the statements -/

/-- A block of the smallest N_BUF whose host has one event to do. -/
def hosted (e : EnvEvent) : State := { State.resetWith 32 with env := [e] }

/-- A running command whose completion one event comes before. -/
def busyHosted (e : EnvEvent) : State :=
  { placeCommand 2 (State.resetWith 32) with env := [e], latency := 1 }

theorem witness_TenWordsAreLegalAndNoOther :
    (0x00000102 : Word) ∉ [0x00000001, 0x00000101, 0x00000201, 0x00000301, 0x00000002, 0x00000003,
      0x00000004, 0x00000005, 0x00000006, 0x00000007] := by decide
theorem witness_StepRunsTheDecodedCommand :
    (running 7 u1).EngineMoves ∧ decode (running 7 u1).cmd = .ok .strip ∧
      Instr.wellFormed .strip = true :=
  ⟨⟨rfl, rfl, .inl rfl⟩, by decide, rfl⟩
theorem witness_AcceptanceStartsTheCommand :
    ((hosted (Script.wr .cmd 0x301)).rstN = true ∧ (hosted (Script.wr .cmd 0x301)).busy = false ∧
      (hosted (Script.wr .cmd 0x301)).HostMoves (Script.wr .cmd 0x301) []) ∧
    ((busyHosted (Script.wr .cmd 0x301)).rstN = true ∧ (busyHosted (Script.wr .cmd 0x301)).busy = true ∧
      (busyHosted (Script.wr .cmd 0x301)).HostMoves (Script.wr .cmd 0x301) []) :=
  ⟨⟨rfl, rfl, rfl, .inr (.inl rfl)⟩, rfl, rfl, rfl, .inr (.inr Nat.one_ne_zero)⟩
theorem witness_IllegalWordEndsInIllegalCmd :
    (running 0x401 u1).EngineMoves ∧ legal (running 0x401 u1).cmd = false :=
  ⟨⟨rfl, rfl, .inl rfl⟩, by decide⟩
theorem witness_LongOperandEndsInLengthRange :
    ({ State.reset with inLen := 65537 } : State).nBuf <
      ({ State.reset with inLen := 65537 } : State).inLen.toNat := by decide +kernel
theorem witness_MissingKeyEndsInKeyNotLoaded :
    ((∃ dc rh, Instr.unpack true false = .unpack dc rh) ∧
      State.reset.inLen.toNat ≤ State.reset.nBuf ∧ State.reset.kw ≠ 0b1111) ∧
    ((Instr.strip ≠ .ecbdec ∧ ∀ dc rh, Instr.strip ≠ .unpack dc rh) ∧
      ∃ t, exec .strip State.reset = .next t) :=
  ⟨⟨⟨true, false, rfl⟩, by decide, by decide⟩, ⟨by simp, by simp⟩, _, rfl⟩
theorem witness_OutcomeIsAFunctionOfTheOperands :
    State.reset.nBuf = (runningKeyed 6 []).nBuf ∧ State.reset.inLen = (runningKeyed 6 []).inLen ∧
      ((Instr.crc16 = .ecbdec ∨ ∃ dc rh, Instr.crc16 = .unpack dc rh) →
        keyBytes State.reset = keyBytes (runningKeyed 6 []) ∧
          keyValid State.reset = keyValid (runningKeyed 6 [])) ∧
      (∀ k, k < State.reset.inLen.toNat → ibufByte State.reset k = ibufByte (runningKeyed 6 []) k) :=
  ⟨rfl, rfl, fun h => by simp at h, fun _ h => absurd h (Nat.not_lt_zero _)⟩
theorem witness_OutputFitsOBUF :
    nBufLegal (running 2 [7]).nBuf = true ∧
      ∃ t, exec .reverse (running 2 [7]) = .next t ∧ t.done = true ∧ 0 < t.outLen.toNat :=
  ⟨by decide, _, rfl, rfl, by decide⟩
theorem witness_FailedCommandsShowNoOutput :
    ∃ t, exec .strip (running 7 [1]) = .next t ∧ t.err = true := ⟨_, rfl, by decide⟩
/-- A block of the smallest N_BUF with IN_LEN = n and the key words kw written. -/
def sized (n : Nat) (kw : BitVec 4) : State :=
  { State.resetWith 32 with inLen := BitVec.ofNat 32 n, kw := kw }

theorem witness_ReverseOutputsTheReversedOperand :
    ∀ n ∈ [0, 1, 32, 33], nBufLegal (sized n 0).nBuf = true ∧
      ((sized n 0).inLen.toNat ≤ (sized n 0).nBuf ↔ n ≠ 33) := by decide
theorem witness_StripDropsSixteenBytes :
    ∀ n ∈ [15, 16, 32, 33], nBufLegal (sized n 0).nBuf = true ∧
      ((sized n 0).nBuf < (sized n 0).inLen.toNat ↔ n = 33) ∧
      ((sized n 0).inLen.toNat < 16 ↔ n = 15) := by decide
theorem witness_ParseReadsTheHeaderFields :
    ∀ n ∈ [15, 16, 32, 33], nBufLegal (sized n 15).nBuf = true ∧
      ((sized n 15).nBuf < (sized n 15).inLen.toNat ↔ n = 33) ∧
      ((sized n 15).inLen.toNat < 16 ↔ n = 15) := by decide
theorem witness_Crc16ComputesOverTheWholeOperand :
    ∀ n ∈ [0, 32, 33], (sized n 0).inLen.toNat ≤ (sized n 0).nBuf ↔ n ≠ 33 := by decide
theorem witness_VerifyComparesTheChecksums :
    (∀ n ∈ [15, 16, 32, 33], nBufLegal (sized n 0).nBuf = true ∧
      ((sized n 0).nBuf < (sized n 0).inLen.toNat ↔ n = 33) ∧
      ((sized n 0).inLen.toNat < 16 ↔ n = 15)) ∧
    ∀ B ∈ [frame1, frame1.set 19 5], nBufLegal (running 5 B).nBuf = true ∧
      ((crc16 (payload (running 5 B))).toNat =
        u16Nat (ibufByte (running 5 B) 4) (ibufByte (running 5 B) 5) ↔ B = frame1) := by
  decide +kernel
theorem witness_EcbdecDecryptsEachBlock :
    (∀ n ∈ [0, 16, 31, 32, 33], nBufLegal (sized n 15).nBuf = true ∧
      ((sized n 15).nBuf < (sized n 15).inLen.toNat ↔ n = 33) ∧ (sized n 15).kw = 0b1111 ∧
      (((sized n 15).inLen.toNat = 0 ∨ (sized n 15).inLen.toNat % 16 ≠ 0) ↔ n ≠ 16 ∧ n ≠ 32)) ∧
    (sized 32 7).kw ≠ 0b1111 ∧ 1 < (sized 32 15).inLen.toNat / 16 := by decide
theorem witness_UnpackRefusesShortContainers :
    (runningKeyed 1 [0x10]).inLen.toNat ≤ (runningKeyed 1 [0x10]).nBuf ∧
      (runningKeyed 1 [0x10]).kw = 0b1111 ∧ (runningKeyed 1 [0x10]).inLen.toNat < 2 := by decide
theorem witness_UnpackGatesTheFormatVersion :
    ∀ B ∈ [[0x11, 0], [0x10, 0x00]], (runningKeyed 1 B).inLen.toNat ≤ (runningKeyed 1 B).nBuf ∧
      (runningKeyed 1 B).kw = 0b1111 ∧ 2 ≤ (runningKeyed 1 B).inLen.toNat ∧
      ((false = false ∧ u16Nat (ibufByte (runningKeyed 1 B) 0) (ibufByte (runningKeyed 1 B) 1) ≠ 0x0010) ↔
        B = [0x11, 0]) := by
  decide
theorem witness_UnpackRefusesMisalignedCiphertexts :
    ∀ n ∈ [2, 17, 18, 32], (sized n 15).inLen.toNat ≤ (sized n 15).nBuf ∧ (sized n 15).kw = 0b1111 ∧
      2 ≤ (sized n 15).inLen.toNat ∧
      ((0 < (sized n 15).inLen.toNat - 2 ∧ ((sized n 15).inLen.toNat - 2) % 16 = 0) ↔ n = 18) := by decide
theorem witness_UncheckedUnpackOutputsThePlaintext :
    nBufLegal (runningKeyed 0x101 u1).nBuf = true ∧
      (runningKeyed 0x101 u1).inLen.toNat ≤ (runningKeyed 0x101 u1).nBuf ∧
      (runningKeyed 0x101 u1).kw = 0b1111 ∧ 2 < (runningKeyed 0x101 u1).inLen.toNat ∧
      ((runningKeyed 0x101 u1).inLen.toNat - 2) % 16 = 0 := by decide +kernel

/-- The block with the container B and the key K0, as UNPACK with checks enabled meets it. -/
def checkedHypotheses (B : Bytes) : Bool :=
  let s := runningKeyed 1 B
  nBufLegal s.nBuf && decide (s.inLen.toNat ≤ s.nBuf) && s.kw == 0b1111 && decide (2 < s.inLen.toNat) &&
    (s.inLen.toNat - 2) % 16 == 0 && u16Nat (ibufByte s 0) (ibufByte s 1) == 0x0010

/-- Whether the plaintext of the container carries its own CRC. -/
def crcMatches (B : Bytes) : Bool :=
  let P := decrypt (keyBytes (runningKeyed 1 B)) (ciphertext (runningKeyed 1 B))
  (crc16 (P.drop 16)).toNat == u16Nat (P.getD 4 0) (P.getD 5 0)

theorem witness_CheckedUnpackVerifiesThePlaintext :
    (checkedHypotheses u1 = true ∧ crcMatches u1 = true) ∧
      (checkedHypotheses (u1.set 33 0xf7) = true ∧ crcMatches (u1.set 33 0xf7) = false) := by decide +kernel
theorem witness_UnpackNeverMeetsATruncatedFrame :
    ∃ t, exec .strip (running 7 [1]) = .next t ∧ t.errcode = 4 := ⟨_, rfl, by decide⟩

/-- The plaintext P1, the frame that U1 holds. -/
def p1 : Bytes :=
  [0x02, 0x01, 0x10, 0x00, 0x6c, 0x14, 0, 0, 0, 0, 0, 0, 0, 0, 0, 0,
   0x10, 0x11, 0x12, 0x13, 0x14, 0x15, 0x16, 0x17, 0x18, 0x19, 0x1a, 0x1b, 0x1c, 0x1d, 0x1e, 0x1f]

theorem witness_UnpackInvertsTheReferenceEncryption :
    let s := runningKeyed 0x101 u1
    nBufLegal s.nBuf = true ∧ s.kw = 0b1111 ∧ (keyBytes s).length = 16 ∧ 0 < p1.length ∧
      p1.length % 16 = 0 ∧ p1.length ≤ s.nBuf - 2 ∧ s.inLen.toNat = p1.length + 2 ∧
      operand s = [(0x0010 : Half).setWidth 8, ((0x0010 : Half) >>> 8).setWidth 8] ++
        Aes.encrypt (keyBytes s) p1 := by
  decide +kernel
theorem witness_DecryptIsBlockLocal : 0 < 2 ∧ (u1.drop 2).length = 16 * 2 ∧ 1 < 2 := by decide
theorem witness_SboxIsTheAffineMapOfTheInverse : (0x53 : Byte) ≠ 0 := by decide
theorem witness_KeyScheduleFollowsTheRecurrence :
    (p1.take 16).length = 16 ∧ 3 < 4 ∧ 4 ≤ 4 ∧ 4 ≤ 43 ∧ 43 < 44 ∧ 10 < 11 := by decide
theorem witness_AesDecAndAesEncAreInverse : (p1.take 16).length = 16 ∧ (p1.drop 16).length = 16 := by decide
theorem witness_CrcIsLinear : ([1, 2] : Bytes).length = ([3, 4] : Bytes).length := rfl
theorem witness_CrcDetectsSingleBitErrors : 3 < ([1, 2, 3, 4] : Bytes).length ∧ 7 < 8 := by decide
theorem witness_RegisterReadsReturnTheirValues :
    ((hosted (Script.rd .crcCalc)).rstN = true ∧
      ((hosted (Script.rd .crcCalc)).busy = false ∨ Reg.isResult .crcCalc = false) ∧
      (hosted (Script.rd .crcCalc)).HostMoves (Script.rd .crcCalc) []) ∧
    ((busyHosted (Script.rd .status)).rstN = true ∧
      ((busyHosted (Script.rd .status)).busy = false ∨ Reg.isResult .status = false) ∧
      (busyHosted (Script.rd .status)).HostMoves (Script.rd .status) []) :=
  ⟨⟨rfl, .inl rfl, rfl, .inr (.inl rfl)⟩, rfl, .inr rfl, rfl, .inr (.inr Nat.one_ne_zero)⟩
theorem witness_NoReadShowsTheKey : Reg.key3 ∈ [Reg.key0, .key1, .key2, .key3] := by decide
theorem witness_BusyResultReadsAreFreshDraws :
    (busyHosted (Script.rd .dataLen)).rstN = true ∧ (busyHosted (Script.rd .dataLen)).busy = true ∧
      Reg.isResult .dataLen = true ∧ (busyHosted (Script.rd .dataLen)).HostMoves (Script.rd .dataLen) [] :=
  ⟨rfl, rfl, rfl, rfl, .inr (.inr Nat.one_ne_zero)⟩
theorem witness_ReadsHaveNoSideEffect :
    State.reset.busy = false ∧
      ∀ r, resolve (running 2 []) .word (.offset 0x00C) = some (.reg r) → r.isResult = false := by
  refine ⟨rfl, fun r h => ?_⟩
  have : resolve (running 2 []) .word (.offset 0x00C) = some (.reg .status) := by decide
  rw [this] at h
  cases h
  rfl
theorem witness_CtrlWriteSetsIEAndClearsTheKey :
    (busyHosted (Script.wr .ctrl 3)).rstN = true ∧
      (busyHosted (Script.wr .ctrl 3)).HostMoves (Script.wr .ctrl 3) [] :=
  ⟨rfl, rfl, .inr (.inr Nat.one_ne_zero)⟩
theorem witness_StatusWriteClearsTheSelectedBits :
    (busyHosted (Script.wr .status 0x16)).rstN = true ∧
      (busyHosted (Script.wr .status 0x16)).HostMoves (Script.wr .status 0x16) [] :=
  ⟨rfl, rfl, .inr (.inr Nat.one_ne_zero)⟩
theorem witness_OperandRegisterWritesStore :
    ∀ r ∈ [Reg.inLen, .key0, .key1, .key2, .key3],
      ((hosted (Script.wr r 0xFFFFFFFF)).rstN = true ∧ (hosted (Script.wr r 0xFFFFFFFF)).busy = false ∧
        (hosted (Script.wr r 0xFFFFFFFF)).HostMoves (Script.wr r 0xFFFFFFFF) []) ∧
      ((busyHosted (Script.wr r 1)).rstN = true ∧ (busyHosted (Script.wr r 1)).busy = true ∧
        (busyHosted (Script.wr r 1)).HostMoves (Script.wr r 1) []) :=
  fun _ _ => ⟨⟨rfl, rfl, rfl, .inr (.inl rfl)⟩, rfl, rfl, rfl, .inr (.inr Nat.one_ne_zero)⟩
theorem witness_KeyScriptLoadsTheKey :
    let s := { State.reset with env := Script.key (p1.take 16) }
    (p1.take 16).length = 16 ∧ s.rstN = true ∧ s.busy = false ∧ s.env = Script.key (p1.take 16) :=
  ⟨rfl, rfl, rfl, rfl⟩
theorem witness_BusyWritesAreDropped :
    (let s := busyHosted (.access (.write (.offset 0x1001F) .byte 1))
     s.rstN = true ∧ s.HostMoves (.access (.write (.offset 0x1001F) .byte 1)) [] ∧
      resolve s .byte (.offset 0x1001F) = some (.ibuf 31) ∧ s.busy = true ∧
      ∃ i, Target.ibuf 31 = .ibuf i) ∧
    (∀ r ∈ [Reg.cmd, .ctrl, .status],
      let s := busyHosted (Script.wr r 0xFFFFFFFF)
      s.rstN = true ∧ s.HostMoves (Script.wr r 0xFFFFFFFF) [] ∧
        resolve s .word (.offset r.offset) = some (.reg r) ∧ s.busy = true) ∧
    (let s := hosted (.access (.write (.offset 0x20000) .word 1))
     s.rstN = true ∧ s.HostMoves (.access (.write (.offset 0x20000) .word 1)) [] ∧
      resolve s .word (.offset 0x20000) = some (.obuf 0) ∧ ∃ i, Target.obuf 0 = .obuf i) ∧
    resolve State.reset .byte (.offset 0x10000) ≠ none :=
  ⟨⟨rfl, ⟨rfl, .inr (.inr Nat.one_ne_zero)⟩, by decide, rfl, 31, rfl⟩,
    fun r hr => ⟨rfl, ⟨rfl, .inr (.inr Nat.one_ne_zero)⟩, by revert r; decide, rfl⟩,
    ⟨rfl, ⟨rfl, .inr (.inl rfl)⟩, by decide, 0, rfl⟩, by decide⟩
theorem witness_ReadoutIssuesTheByteReads :
    (hosted .readout).rstN = true ∧ (hosted .readout).HostMoves .readout [] :=
  ⟨rfl, rfl, .inr (.inl rfl)⟩
theorem witness_IbufWriteStoresItsBytes :
    let s := hosted (.access (.write (.offset 0x1001C) .word 0x01020304))
    s.rstN = true ∧ s.busy = false ∧
      s.HostMoves (.access (.write (.offset 0x1001C) .word 0x01020304)) [] ∧
      resolve s .word (.offset 0x1001C) = some (.ibuf 28) ∧
      (28 ≤ 31 ∧ 31 < 28 + Width.word.bytes) ∧ 28 + Width.word.bytes ≤ 32 :=
  ⟨rfl, rfl, ⟨rfl, .inr (.inl rfl)⟩, by decide, by decide, by decide⟩
theorem witness_BufferReadsAreLittleEndian :
    resolve (State.resetWith 32) .half (.offset 0x1001E) = some (.ibuf 30) ∧
      resolve (State.resetWith 32) .word (.offset 0x2001C) = some (.obuf 28) := by decide
theorem witness_LegalAccessesAreTheListedOnes :
    nBufLegal 32 = true ∧ accessTarget 32 .word 0x04C = some (.reg .key3) ∧
      accessTarget 32 .byte 0x1001F = some (.ibuf 31) ∧ accessTarget 32 .byte 0x10020 = none ∧
      accessTarget 32 .word 0x2001C = some (.obuf 28) := by decide
theorem witness_BusErrorChangesNothing :
    (let s := hosted (.access (.read (.offset 0x01C) .word))
     resolve s .word (.offset 0x01C) = none ∧ s.rstN = true ∧
      s.HostMoves (.access (.read (.offset 0x01C) .word)) []) ∧
    (let s := hosted (.access (.write (.offset 0x10001) .half 1))
     resolve s .half (.offset 0x10001) = none ∧ s.rstN = true ∧
      s.HostMoves (.access (.write (.offset 0x10001) .half 1)) []) :=
  ⟨⟨by decide, rfl, rfl, .inr (.inl rfl)⟩, by decide, rfl, rfl, .inr (.inl rfl)⟩
theorem witness_ResetAbortsAndHolds :
    (busyHosted .rstLow).HostMoves .rstLow [] ∧
    (let s := holdReset State.reset
     s.rstN = false ∧ s.env = []) ∧
    (let s := { holdReset State.reset with env := [.access (.read (.offset 0) .word)] }
     s.rstN = false ∧ s.HostMoves (.access (.read (.offset 0) .word)) []) ∧
    (let s := { holdReset State.reset with env := [.rstHigh] }
     s.rstN = false ∧ s.HostMoves .rstHigh []) :=
  ⟨⟨rfl, .inr (.inr Nat.one_ne_zero)⟩, ⟨rfl, rfl⟩, ⟨rfl, rfl, .inl rfl⟩, rfl, rfl, .inl rfl⟩
theorem witness_ResetLeavesTheListedValues : nBufLegal 32 = true ∧ nBufLegal 65536 = true := by decide
theorem witness_ResetMeetsTheInvariants : nBufLegal 48 = true := by decide

/-- The reset state of the smallest block meets the invariants. -/
theorem witness_EveryStepKeepsTheInvariants :
    (State.resetWith 32).Inv ∧ ∃ t, step (State.resetWith 32) = .next t := by
  refine ⟨?_, _, rfl⟩
  constructor <;> simp [State.resetWith, nBufLegal, Memory.wf, Memory.inside]
theorem witness_OperandsAreStableWhileBusy :
    (busyHosted (Script.wr .inLen 3)).busy = true ∧
      ∃ t, step (busyHosted (Script.wr .inLen 3)) = .next t ∧ t.busy = true :=
  ⟨rfl, _, rfl, rfl⟩
theorem witness_BusyRisesByAcceptanceAndFallsByCompletion :
    ((hosted (Script.wr .cmd 2)).busy = false ∧
      ∃ t, step (hosted (Script.wr .cmd 2)) = .next t ∧ t.busy = true) ∧
    ((running 2 []).busy = true ∧ ∃ t, step (running 2 []) = .next t ∧ t.busy = false) ∧
    ((busyHosted .rstLow).busy = true ∧ ∃ t, step (busyHosted .rstLow) = .next t ∧ t.busy = false) :=
  ⟨⟨rfl, _, rfl, rfl⟩, ⟨rfl, _, rfl, rfl⟩, rfl, _, rfl, rfl⟩
theorem witness_ResultsStayUntilAcceptanceOrReset :
    let s := { hosted (Script.wr .cmd 2) with outLen := 3 }
    s.busy = false ∧ ∃ t, step s = .next t ∧
      (t.res ≠ s.res ∨ t.outLen ≠ s.outLen ∨ ∃ i, obufRead t i ≠ obufRead s i) :=
  ⟨rfl, _, rfl, .inr (.inl (by decide))⟩
theorem witness_KeyChangesOnlyByTheHost :
    ∃ t, step (hosted (Script.wr .key1 5)) = .next t ∧
      (keyBytes t ≠ keyBytes (hosted (Script.wr .key1 5)) ∨ t.kw ≠ (hosted (Script.wr .key1 5)).kw) :=
  ⟨_, rfl, .inr (by decide)⟩
theorem witness_NothingShowsWhileBusy :
    (placeCommand 2 (State.resetWith 32)).Inv ∧ (placeCommand 2 (State.resetWith 32)).busy = true := by
  refine ⟨?_, rfl⟩
  constructor <;> simp [placeCommand, accept, acceptedSeq, State.resetWith, nBufLegal, Memory.wf, Memory.inside]
theorem witness_WaitEndsWithTheCommandComplete :
    (busyHosted .wait).rstN = true ∧ (busyHosted .wait).busy = true ∧ (busyHosted .wait).env = [.wait] :=
  ⟨rfl, rfl, rfl⟩

end Sys2Proof.Tests
end

section
/-! SUPPORT. The host's accesses as steps: what the step of a legal read or write answers, that a register is
reached at its own offset, and everything a legal write can do to the block. -/

namespace Sys2Proof.Machine

/-! ## A legal access is one step -/

/-- A register is reached at its own offset of the register page (R21, R74). -/
theorem resolve_regOffset (s : State) (r : Reg) : resolve s .word (.offset r.offset) = some (.reg r) := by
  cases r <;> rfl

theorem portAccess_read {s : State} {addr : BusAddr} {n : Width} {tgt : Target}
    (h : resolve s n addr = some tgt) :
    portAccess (.read addr n) s = (.data (readTarget n tgt s).1, (readTarget n tgt s).2) := by
  simp [portAccess, h]

theorem portAccess_write {s : State} {addr : BusAddr} {n : Width} {tgt : Target} (v : Word)
    (h : resolve s n addr = some tgt) :
    portAccess (.write addr n v) s = (.ok, writeTarget n tgt v s) := by
  simp [portAccess, h]

/-- The step of a legal read: the port carries the value read from the state without the event. -/
theorem step_read {s : State} {rest : List EnvEvent} {addr : BusAddr} {n : Width} {tgt : Target}
    (hr : s.rstN = true) (hm : s.HostMoves (.access (.read addr n)) rest)
    (ht : resolve s n addr = some tgt) :
    step s = .next { (readTarget n tgt (takeEvent rest s)).2 with
      resp := some (.data (readTarget n tgt (takeEvent rest s)).1) } := by
  have ht' : resolve (takeEvent rest s) n addr = some tgt := ht
  simp [step_host hm, envStep, transact, hr, portAccess_read ht']

/-- The step of a legal write: its effect on the state without the event, and OK on the port. -/
theorem step_write {s : State} {rest : List EnvEvent} {addr : BusAddr} {n : Width} {v : Word} {tgt : Target}
    (hr : s.rstN = true) (hm : s.HostMoves (.access (.write addr n v)) rest)
    (ht : resolve s n addr = some tgt) :
    step s = .next { writeTarget n tgt v (takeEvent rest s) with resp := some .ok } := by
  have ht' : resolve (takeEvent rest s) n addr = some tgt := ht
  simp [step_host hm, envStep, transact, hr, portAccess_write v ht']

/-- `rd REG` as a step (R111). -/
theorem step_rd {s : State} {r : Reg} {rest : List EnvEvent} (hr : s.rstN = true)
    (hm : s.HostMoves (Script.rd r) rest) :
    step s = .next { (readReg r (takeEvent rest s)).2 with
      resp := some (.data (readReg r (takeEvent rest s)).1) } :=
  step_read hr hm (resolve_regOffset s r)

/-- `wr REG, v` as a step (R111). -/
theorem step_wr {s : State} {r : Reg} {v : Word} {rest : List EnvEvent} (hr : s.rstN = true)
    (hm : s.HostMoves (Script.wr r v) rest) :
    step s = .next { writeReg r v (takeEvent rest s) with resp := some .ok } :=
  step_write hr hm (resolve_regOffset s r)

/-- The window of IBUF ends at N_BUF: an access that reaches IBUF reaches bytes of the buffer alone (R73). -/
theorem resolve_ibuf_inside {s : State} {n : Width} {addr : BusAddr} {i : Nat}
    (h : resolve s n addr = some (.ibuf i)) : i + n.bytes ≤ s.nBuf := by
  obtain ⟨a, -, ha⟩ := Option.bind_eq_some_iff.1 h
  unfold accessTarget at ha
  split_ifs at ha
  · simp at ha
  · simp only [Option.some.injEq, Target.ibuf.injEq] at ha
    omega
  · simp at ha

/-! ## Everything a legal write can do -/

/-- t is s but for what the host alone writes, and the block only reads: CTRL.IE, WR_BUSY, IN_LEN, the key and
its written bits. -/
def HostRegsOnly (s t : State) : Prop :=
  ∃ ie wrBusy inLen key0 key1 key2 key3 kw, t = { s with
    ie := ie, wrBusy := wrBusy, inLen := inLen
    key0 := key0, key1 := key1, key2 := key2, key3 := key3, kw := kw }

theorem HostRegsOnly.refl (s : State) : HostRegsOnly s s := ⟨_, _, _, _, _, _, _, _, rfl⟩

theorem HostRegsOnly.dropWrite (s : State) : HostRegsOnly s (dropWrite s) :=
  ⟨_, _, _, _, _, _, _, _, rfl⟩

/-- A dropped write sets WR_BUSY, so a write of the host's registers stays one when BUSY drops it. -/
theorem HostRegsOnly.whenIdle {w : State → State} {s : State} (h : HostRegsOnly s (w s)) :
    HostRegsOnly s (whenIdle w s) := by
  rcases whenIdle_cases w s with ⟨-, hw⟩ | ⟨-, hw⟩
  · exact hw ▸ .dropWrite s
  · exact hw ▸ h

theorem writeCtrl_hostRegsOnly (v : Word) (s : State) : HostRegsOnly s (writeCtrl v s) := by
  rw [writeCtrl_eq]
  split
  · split <;> exact ⟨_, _, _, _, _, _, _, _, rfl⟩
  · exact ⟨_, _, _, _, _, _, _, _, rfl⟩

/-- A write of a register clears STATUS bits, is an acceptance, or stays within the host's own registers. -/
theorem writeReg_cases (r : Reg) (v : Word) (s : State) :
    (r = .status ∧ writeReg r v s = writeStatus v s) ∨
    (r = .cmd ∧ s.busy = false ∧ writeReg r v s = accept v s) ∨
    HostRegsOnly s (writeReg r v s) := by
  cases r with
  | status => exact .inl ⟨rfl, rfl⟩
  | cmd =>
    rcases whenIdle_cases (accept v) s with ⟨-, hw⟩ | ⟨hb, hw⟩
    · refine .inr (.inr ?_)
      simp only [writeReg, hw]
      exact .dropWrite s
    · exact .inr (.inl ⟨rfl, hb, hw⟩)
  | ctrl => exact .inr (.inr (writeCtrl_hostRegsOnly v s))
  | inLen | key0 | key1 | key2 | key3 =>
    simp only [writeReg]
    exact .inr (.inr (.whenIdle ⟨_, _, _, _, _, _, _, _, rfl⟩))
  | id | bufsz | outLen | fmtVer | fwVer | dataSize | crcStored | crcCalc | dataLen =>
    exact .inr (.inr (.refl s))

/-- A legal write clears STATUS bits, is an acceptance, stores into IBUF, or stays within the host's own
registers. -/
theorem writeTarget_cases (n : Width) (tgt : Target) (v : Word) (s : State) :
    (tgt = .reg .status ∧ writeTarget n tgt v s = writeStatus v s) ∨
    (tgt = .reg .cmd ∧ s.busy = false ∧ writeTarget n tgt v s = accept v s) ∨
    (∃ i, tgt = .ibuf i ∧ s.busy = false ∧
      writeTarget n tgt v s = { s with ibuf := writeLE s.ibuf i n.bytes v }) ∨
    HostRegsOnly s (writeTarget n tgt v s) := by
  cases tgt with
  | reg r =>
    rcases writeReg_cases r v s with ⟨rfl, hw⟩ | ⟨rfl, hb, hw⟩ | hw
    · exact .inl ⟨rfl, hw⟩
    · exact .inr (.inl ⟨rfl, hb, hw⟩)
    · exact .inr (.inr (.inr hw))
  | ibuf i =>
    rcases whenIdle_cases (fun s => { s with ibuf := writeLE s.ibuf i n.bytes v }) s with
      ⟨-, hw⟩ | ⟨hb, hw⟩
    · refine .inr (.inr (.inr ?_))
      simp only [writeTarget, hw]
      exact .dropWrite s
    · exact .inr (.inr (.inl ⟨i, rfl, hb, hw⟩))
  | obuf i => exact .inr (.inr (.inr (.refl s)))

end Sys2Proof.Machine
end

section
/-! SUPPORT. What every outcome of a command keeps to: an output no longer than its operand, and a sub-cause
with a ConfigError alone. -/

namespace Sys2Proof.Machine

/-- The outcome has an output of at most n bytes (R138), or it is an error that has a sub-cause only as a
ConfigError (R261). -/
def CmdOutcome.Fits (n : Nat) : CmdOutcome → Prop
  | .ok out _ => out.length ≤ n
  | .err kind sub _ => sub = .none ∨ kind = .config

theorem CmdOutcome.Fits.mono {m n : Nat} {o : CmdOutcome} (h : o.Fits m) (hmn : m ≤ n) : o.Fits n := by
  cases o with
  | ok out r => exact Nat.le_trans h hmn
  | err kind sub r => exact h

theorem reverseExec_fits (B : Bytes) : (reverseExec B).Fits B.length := by
  simp [reverseExec, CmdOutcome.Fits, rev]

theorem length_strip_le (P : Bytes) : (strip P).length ≤ P.length := by simp [strip]

theorem stripExec_fits (B : Bytes) : (stripExec B).Fits B.length := by
  unfold stripExec
  split
  · exact .inl rfl
  · exact length_strip_le B

theorem crc16Exec_fits (B : Bytes) : (crc16Exec B).Fits B.length := Nat.zero_le _

theorem parseExec_fits (B : Bytes) : (parseExec B).Fits B.length := by
  unfold parseExec
  split
  · exact .inl rfl
  · exact Nat.zero_le _

theorem verifyFrame_fits {n : Nat} {out : Bytes} (r : Results) (f : Frame) (P : Bytes)
    (h : out.length ≤ n) : (verifyFrame r f P out).Fits n := by
  unfold verifyFrame
  simp only
  split
  · exact .inl rfl
  · exact h

theorem verifyExec_fits (B : Bytes) : (verifyExec B).Fits B.length := by
  unfold verifyExec
  split
  · exact .inl rfl
  · exact verifyFrame_fits _ _ _ (Nat.zero_le _)

theorem ecbdecExec_fits (B K : Bytes) : (ecbdecExec B K).Fits B.length := by
  unfold ecbdecExec
  split
  · exact .inl rfl
  · rename_i h
    exact (Aes.length_ecbDec K ((Aes.misaligned_eq_false_iff B).1 (Bool.eq_false_iff.2 h)).2).le

theorem length_emitted_le (rh : Bool) (P : Bytes) : (emitted rh P).length ≤ P.length := by
  cases rh
  · exact Nat.le_refl _
  · exact length_strip_le P

theorem unpackPlain_fits (dc rh : Bool) (r : Results) (P : Bytes) :
    (unpackPlain dc rh r P).Fits P.length := by
  unfold unpackPlain
  split
  · exact length_emitted_le rh P
  · split
    · exact .inl rfl
    · exact verifyFrame_fits _ _ _ (length_emitted_le rh P)

theorem unpackExec_fits (dc rh : Bool) (B K : Bytes) : (unpackExec dc rh B K).Fits B.length := by
  unfold unpackExec
  split
  · exact .inl rfl
  · simp only
    split
    · exact .inl rfl
    · split
      · exact .inl rfl
      · rename_i h
        have hC := ((Aes.misaligned_eq_false_iff (B.drop Config.prefixBytes)).1 (Bool.eq_false_iff.2 h)).2
        refine (unpackPlain_fits dc rh _ _).mono ?_
        rw [length_decrypt K hC, List.length_drop]
        exact Nat.sub_le _ _

/-- The common checks keep the output inside the buffer: they let no operand longer than N_BUF through. -/
theorem checked_fits {k : Bool} {body : Bytes → Bytes → CmdOutcome} (s : State)
    (h : ∀ B K, (body B K).Fits B.length) : (checked k body s).Fits s.nBuf := by
  rcases checked_cases k body s with ⟨-, hc⟩ | ⟨-, -, -, hc⟩ | ⟨hn, -, hc⟩ <;> rw [hc]
  · exact .inr rfl
  · exact .inr rfl
  · exact (h _ _).mono (by rwa [length_operand])

theorem outcome_fits (i : Instr) (s : State) : (outcome i s).Fits s.nBuf := by
  cases i with
  | unpack dc rh => exact checked_fits s (unpackExec_fits dc rh)
  | reverse => exact checked_fits s fun B _ => reverseExec_fits B
  | ecbdec => exact checked_fits s ecbdecExec_fits
  | parse => exact checked_fits s fun B _ => parseExec_fits B
  | verify => exact checked_fits s fun B _ => verifyExec_fits B
  | crc16 => exact checked_fits s fun B _ => crc16Exec_fits B
  | strip => exact checked_fits s fun B _ => stripExec_fits B

end Sys2Proof.Machine
end

section
/-! The invariants of 10_state.md R55: they hold at reset, and every step keeps them. -/

namespace Sys2Proof.Machine

theorem nBufLegal_iff (n : Nat) : nBufLegal n = true ↔ n % 16 = 0 ∧ 32 ≤ n ∧ n ≤ 65536 := by
  simp [nBufLegal, and_assoc]

/-! ## What the invariants read -/

/-- The state s with everything that no invariant reads at its reset value, and `rst_n` at 1. -/
def State.invPart (s : State) : State :=
  { State.resetWith s.nBuf with
    busy := s.busy, done := s.done, err := s.err, errcode := s.errcode, cfgsub := s.cfgsub
    outLen := s.outLen, ibuf := s.ibuf, obuf := s.obuf, seq := s.seq }

/-- The invariants are those of `State.invPart`, and the block held in reset while `rst_n` is 0. -/
theorem State.inv_iff_invPart (s : State) :
    s.Inv ↔ s.invPart.Inv ∧ (s.rstN = false → s.heldInReset = s) :=
  ⟨fun h => ⟨{ h with held_in_reset := nofun }, h.held_in_reset⟩,
    fun ⟨h, hr⟩ => { h with held_in_reset := hr }⟩

/-- A change of what no invariant reads keeps them, with `rst_n` at 1. -/
theorem State.Inv.of_invPart {s t : State} (h : s.Inv) (he : t.invPart = s.invPart)
    (hr : t.rstN = true) : t.Inv :=
  t.inv_iff_invPart.2 ⟨he ▸ (s.inv_iff_invPart.1 h).1, by simp [hr]⟩

/-- The pending events, the port and the count of draws go on while the block is held in reset. -/
theorem State.Inv.of_outside {s : State} (h : s.Inv) (env : List EnvEvent) (resp : Option BusResponse)
    (draws : Nat) : ({ s with env := env, resp := resp, draws := draws } : State).Inv :=
  (State.inv_iff_invPart _).2 ⟨(s.inv_iff_invPart.1 h).1, fun hr =>
    congrArg (fun u : State => { u with env := env, resp := resp, draws := draws }) (h.held_in_reset hr)⟩

theorem State.Inv.takeEvent {s : State} (h : s.Inv) (rest : List EnvEvent) : (takeEvent rest s).Inv :=
  (State.inv_iff_invPart _).2 ⟨(s.inv_iff_invPart.1 h).1, fun hr =>
    congrArg (Sys2Proof.Machine.takeEvent rest) (h.held_in_reset hr)⟩

/-! ## Reset -/

theorem resetWith_inv {n : Nat} (h : nBufLegal n = true) : (State.resetWith n).Inv := by
  constructor <;> simp [State.resetWith, h, Memory.wf, Memory.inside]

theorem State.Inv.holdReset {s : State} (h : s.Inv) : (holdReset s).Inv :=
  (State.inv_iff_invPart _).2 ⟨((State.inv_iff_invPart _).1 (resetWith_inv h.nBuf_legal)).1, fun _ => rfl⟩

theorem State.Inv.releaseReset {s : State} (h : s.Inv) : (releaseReset s).Inv := h.of_invPart rfl rfl

/-! ## Acceptance and completion -/

theorem acceptedSeq_ne_idle (v : Word) : acceptedSeq v ≠ .idle := by
  unfold acceptedSeq
  split <;> nofun

theorem State.Inv.accept {s : State} (h : s.Inv) (hr : s.rstN = true) (v : Word) : (accept v s).Inv :=
  { h with
    busy_clean := fun _ => ⟨rfl, rfl, rfl⟩
    done_or_err := nofun
    err_iff_code := by simp
    sub_is_config := by simp
    codes_produced := by simp
    outLen_fits := Nat.zero_le _
    err_no_output := fun _ => rfl
    seq_class := by simp [acceptedSeq_ne_idle]
    output_stored := nofun
    held_in_reset := by simp [hr] }

theorem ErrorKind.code_ne_zero (k : ErrorKind) : k.code ≠ 0 := by cases k <;> decide

theorem ErrorKind.code_le (k : ErrorKind) : k.code ≤ 6 := by cases k <;> decide

theorem CfgSub.code_le (c : CfgSub) : c.code ≤ 3 := by cases c <;> decide

theorem State.Inv.raiseError {s : State} (h : s.Inv) (hr : s.rstN = true) {k : ErrorKind} {c : CfgSub}
    (hc : c = .none ∨ k = .config) (r : Results) : (raiseError k c r s).Inv :=
  { h with
    busy_clean := nofun
    done_or_err := nofun
    err_iff_code := by simpa using k.code_ne_zero
    sub_is_config := by rcases hc with rfl | rfl <;> simp [CfgSub.code, ErrorKind.code]
    codes_produced := ⟨k.code_le, c.code_le⟩
    outLen_fits := Nat.zero_le _
    err_no_output := fun _ => rfl
    seq_class := by simp
    obuf_wf := rfl
    obuf_inside := rfl
    output_stored := nofun
    held_in_reset := by simp [hr] }

theorem State.Inv.completeOk {s : State} (h : s.Inv) (hr : s.rstN = true) {out : Bytes}
    (hout : out.length ≤ s.nBuf) (r : Results) : (completeOk out r s).Inv := by
  obtain ⟨-, -, hmax⟩ := (nBufLegal_iff _).1 h.nBuf_legal
  have hlen : (BitVec.ofNat 17 out.length).toNat = out.length := by
    rw [BitVec.toNat_ofNat, Nat.mod_eq_of_lt (by omega)]
  exact { h with
    busy_clean := nofun
    done_or_err := nofun
    err_iff_code := by simp
    sub_is_config := by simp
    codes_produced := by simp
    outLen_fits := hlen.trans_le hout
    err_no_output := nofun
    seq_class := by simp
    obuf_wf := Memory.wf_ofBytes 0 out
    obuf_inside := Memory.inside_ofBytes (by simpa using hout)
    output_stored := fun i hi => by
      have hi : i < out.length := hlen ▸ hi
      simp [Memory.get?_ofBytes, hi]
    held_in_reset := by simp [hr] }

theorem State.Inv.complete {s : State} (h : s.Inv) (hr : s.rstN = true) {o : CmdOutcome}
    (ho : o.Fits s.nBuf) : (complete o s).Inv := by
  cases o with
  | ok out r => exact h.completeOk hr ho r
  | err kind sub r => exact h.raiseError hr ho r

/-! ## Accesses -/

/-- The W1C bits of STATUS clear DONE and ERR, and ERR together with its codes. -/
theorem State.Inv.writeStatus {s : State} (h : s.Inv) (hr : s.rstN = true) (v : Word) :
    (writeStatus v s).Inv := by
  rw [writeStatus_eq]
  exact { h with
    busy_clean := fun hb => by simp [h.busy_clean hb]
    done_or_err := fun ⟨hd, he⟩ => h.done_or_err (by simp_all)
    err_iff_code := by cases v.getLsbD 2 <;> simp [h.err_iff_code]
    sub_is_config := by cases v.getLsbD 2; exacts [h.sub_is_config, by simp]
    codes_produced := by cases v.getLsbD 2; exacts [h.codes_produced, by simp]
    err_no_output := fun he => h.err_no_output (by simp_all)
    held_in_reset := by simp [hr] }

theorem State.Inv.writeIbuf {s : State} (h : s.Inv) (hr : s.rstN = true) {i n : Nat}
    (hi : i + n ≤ s.nBuf) (v : Word) : ({ s with ibuf := writeLE s.ibuf i n v } : State).Inv :=
  { h with
    ibuf_wf := Memory.wf_writeLE i n v h.ibuf_wf
    ibuf_inside := Memory.inside_writeLE v hi h.ibuf_inside
    held_in_reset := by simp [hr] }

theorem State.Inv.hostRegsOnly {s t : State} (h : s.Inv) (hr : s.rstN = true) (ht : HostRegsOnly s t) :
    t.Inv := by
  obtain ⟨_, _, _, _, _, _, _, _, rfl⟩ := ht
  exact h.of_invPart rfl hr

theorem State.Inv.portAccess {s : State} (h : s.Inv) (hr : s.rstN = true) (tx : Txn) :
    (portAccess tx s).2.Inv := by
  rcases portAccess_cases tx s with hp | ⟨addr, n, tgt, -, -, hp⟩ | ⟨addr, n, v, tgt, -, ht, hp⟩ <;> rw [hp]
  · exact h
  · rcases readTarget_state n tgt s with hs | ⟨-, hs⟩ <;> simp only [hs]
    · exact h
    · exact h.of_outside _ _ _
  · rcases writeTarget_cases n tgt v s with ⟨-, hw⟩ | ⟨-, -, hw⟩ | ⟨i, rfl, -, hw⟩ | hw
    · exact hw ▸ h.writeStatus hr v
    · exact hw ▸ h.accept hr v
    · exact hw ▸ h.writeIbuf hr (resolve_ibuf_inside ht) v
    · exact h.hostRegsOnly hr hw

theorem State.Inv.transact {s t : State} (h : s.Inv) {tx : Txn} (ht : transact tx s = .next t) : t.Inv := by
  rcases transact_cases tx s with ⟨-, -, he⟩ | ⟨hr, -, he⟩ | ⟨-, he⟩ <;> rw [he] at ht
  · cases ht
  · cases ht
    exact (h.portAccess hr tx).of_outside _ _ _
  · cases ht
    exact h.of_outside _ _ _

/-! ## Events and steps -/

theorem State.Inv.envStep {s t : State} (h : s.Inv) {e : EnvEvent} (ht : envStep e s = .next t) : t.Inv := by
  rcases envStep_next ht with ⟨-, rfl⟩ | ⟨-, rfl⟩ | ⟨tx, -, hx⟩ | ⟨r, s', env, -, hx, rfl⟩
  · exact h.holdReset
  · exact h.releaseReset
  · exact h.transact hx
  · exact (h.transact hx).of_outside _ _ _

/-- Settles O54: a step is a completion, whose outcome fits the buffer, an event of the outside world, or
nothing. -/
theorem everyStepKeepsTheInvariants : Obligations.EveryStepKeepsTheInvariants := by
  intro s t h hs
  rcases step_next hs with ⟨⟨hr, -⟩, o, rfl, ho⟩ | ⟨e, rest, -, he⟩ | ⟨-, -, rfl⟩
  · refine h.complete hr ?_
    rcases ho with ⟨i, -, rfl⟩ | ⟨e, -, rfl⟩
    · exact outcome_fits i s
    · exact .inr rfl
  · exact (h.takeEvent rest).envStep he
  · exact h

/-- Settles O53. -/
theorem resetMeetsTheInvariants : Obligations.ResetMeetsTheInvariants :=
  ⟨fun _ => resetWith_inv, rfl, resetWith_inv (by decide)⟩

end Sys2Proof.Machine
end

section
/-! The register page of 10_state.md: STATUS, reads and writes at the registers' offsets, and the values that
reset leaves. -/

namespace Sys2Proof.Machine

/-! ## STATUS -/

theorem keyValid_eq_decide (s : State) : keyValid s = decide (s.kw = 0b1111) := by
  rw [Bool.eq_iff_iff, keyValid_iff, decide_eq_true_eq]

/-- Above the five flag bits, STATUS is its reserved bits, ERRCODE and CFGSUB (R26). -/
theorem statusWord_extract_above_flags (s : State) (k n : Nat) :
    (statusWord s).extractLsb' (k + 5) n = (0#17 ++ s.cfgsub ++ s.errcode ++ 0#3).extractLsb' k n := by
  unfold statusWord
  iterate 5 rw [BitVec.extractLsb'_append_eq_of_le (by omega)]
  simp

/-- Settles O35: each field is found by passing over the fields below it in the concatenation of R26. -/
theorem statusShowsItsFields : Obligations.StatusShowsItsFields := by
  intro s
  rw [← keyValid_eq_decide]
  refine ⟨?busy, ?done, ?err, ?keyValid, ?wrBusy, ?low, ?errcode, ?cfgsub, ?high⟩
  case low =>
    rw [statusWord_extract_above_flags s 0]
    exact BitVec.extractLsb'_append_eq_right
  case errcode =>
    rw [statusWord_extract_above_flags s 3, BitVec.extractLsb'_append_eq_of_le (by decide)]
    exact BitVec.extractLsb'_append_eq_right
  case cfgsub =>
    rw [statusWord_extract_above_flags s 7]
    iterate 2 rw [BitVec.extractLsb'_append_eq_of_le (by decide)]
    exact BitVec.extractLsb'_append_eq_right
  case high =>
    rw [statusWord_extract_above_flags s 10]
    iterate 2 rw [BitVec.extractLsb'_append_eq_of_le (by decide)]
    exact BitVec.extractLsb'_append_eq_left
  all_goals
    unfold statusWord
    repeat rw [BitVec.getLsbD_append]
    simp

/-! ## Reads -/

theorem readReg_settled {r : Reg} {s : State} (h : s.busy = false ∨ r.isResult = false) :
    readReg r s = (regValue s r, s) := by
  rcases h with h | h <;> simp [readReg, h]

theorem readReg_unsettled {r : Reg} {s : State} (hb : s.busy = true) (hr : r.isResult = true) :
    readReg r s = (Config.busyResult s.draws, { s with draws := s.draws + 1 }) := by
  simp [readReg, hb, hr]

/-- Settles O36. -/
theorem registerReadsReturnTheirValues : Obligations.RegisterReadsReturnTheirValues := by
  intro s r rest hr hb hm
  have hb' : (takeEvent rest s).busy = false ∨ r.isResult = false := hb
  rw [step_rd hr hm, readReg_settled hb']
  cases r with
  | bufsz =>
    have hsize : (BitVec.ofNat 17 s.nBuf).setWidth 32 = BitVec.ofNat 32 (s.nBuf % 2 ^ 17) := by
      apply BitVec.eq_of_toNat_eq
      simp
    rw [← hsize]
    rfl
  | ctrl =>
    have hie : (BitVec.ofBool s.ie).setWidth 32 = if s.ie then 1#32 else 0#32 := by
      cases s.ie <;> rfl
    exact congrArg (fun v => Host.Outcome.next (s.afterEvent rest (.data v))) hie
  | _ => rfl

/-- Settles O37. -/
theorem busyResultReadsAreFreshDraws : Obligations.BusyResultReadsAreFreshDraws := by
  intro s r rest hr hb hres hm
  have hb' : (takeEvent rest s).busy = true := hb
  rw [step_rd hr hm, readReg_unsettled hb' hres]
  rfl

/-- No register's value is taken from the key words: the KEY registers read 0, and of the key STATUS shows
KEY_VALID alone, which is made of KW. -/
theorem readTarget_key_irrelevant (n : Width) (tgt : Target) (s : State) (k0 k1 k2 k3 : Word) :
    (readTarget n tgt { s with key0 := k0, key1 := k1, key2 := k2, key3 := k3 }).1 =
      (readTarget n tgt s).1 := by
  cases tgt with
  | reg r =>
    simp only [readTarget, readReg]
    split
    · rfl
    · cases r <;> rfl
  | ibuf i => rfl
  | obuf i => rfl

/-- Settles O38. -/
theorem noReadShowsTheKey : Obligations.NoReadShowsTheKey := by
  refine ⟨fun s r hr => ?_, fun s k0 k1 k2 k3 addr n => ?_⟩
  · rw [portAccess_read (resolve_regOffset s r)]
    simp only [List.mem_cons, List.not_mem_nil, or_false] at hr
    have hres : r.isResult = false := by rcases hr with rfl | rfl | rfl | rfl <;> rfl
    have hval : regValue s r = 0 := by rcases hr with rfl | rfl | rfl | rfl <;> rfl
    simp only [readTarget, readReg_settled (.inr hres), hval]
  · cases ht : resolve s n addr with
    | none =>
      have ht' : resolve { s with key0 := k0, key1 := k1, key2 := k2, key3 := k3 } n addr = none := ht
      simp [portAccess, ht, ht']
    | some tgt =>
      have ht' : resolve { s with key0 := k0, key1 := k1, key2 := k2, key3 := k3 } n addr = some tgt := ht
      rw [portAccess_read ht, portAccess_read ht', readTarget_key_irrelevant]

/-! ## Writes -/

/-- Settles O40. -/
theorem ctrlWriteSetsIEAndClearsTheKey : Obligations.CtrlWriteSetsIEAndClearsTheKey := by
  intro s v rest hr hm
  rw [step_wr hr hm, writeReg, writeCtrl_eq, takeEvent_busy]
  split
  · split <;> rfl
  · rfl

/-- Settles O41. -/
theorem statusWriteClearsTheSelectedBits : Obligations.StatusWriteClearsTheSelectedBits := by
  intro s v rest hr hm
  rw [step_wr hr hm, writeReg, writeStatus_eq]
  rfl

/-- A register write that BUSY drops, as a step: it is done, or it sets WR_BUSY alone (R30, R300). -/
theorem step_wr_whenIdle {s : State} {r : Reg} {v : Word} {rest : List EnvEvent} (w : State → State)
    (hw : writeReg r v = whenIdle w) (hr : s.rstN = true) (hm : s.HostMoves (Script.wr r v) rest) :
    step s = .next (if s.busy then { s.afterEvent rest .ok with wrBusy := true }
      else { w (takeEvent rest s) with resp := some .ok }) := by
  rw [step_wr hr hm, hw, whenIdle, takeEvent_busy]
  split <;> rfl

/-- Settles O42. -/
theorem operandRegisterWritesStore : Obligations.OperandRegisterWritesStore := fun _ v _ hr =>
  ⟨step_wr_whenIdle (fun s => { s with inLen := v }) rfl hr,
    step_wr_whenIdle (fun s => { s with key0 := v, kw := s.kw ||| 1#4 }) rfl hr,
    step_wr_whenIdle (fun s => { s with key1 := v, kw := s.kw ||| 2#4 }) rfl hr,
    step_wr_whenIdle (fun s => { s with key2 := v, kw := s.kw ||| 4#4 }) rfl hr,
    step_wr_whenIdle (fun s => { s with key3 := v, kw := s.kw ||| 8#4 }) rfl hr⟩

/-! ## The key script -/

theorem core_run_succ {s t : State} (k : Nat) (h : step s = .next t) :
    Sys2Proof.core.run (k + 1) s = Sys2Proof.core.run k t := by
  have h' : Sys2Proof.core.step s = .next t := h
  simp [Host.Core.run, h']

/-- The four bytes of a word, listed from its least significant end. -/
theorem wordBytes_append (b0 b1 b2 b3 : Byte) : wordBytes (b3 ++ b2 ++ b1 ++ b0) = [b0, b1, b2, b3] := by
  have h0 : (b3 ++ b2 ++ b1 ++ b0).extractLsb' 0 8 = b0 := BitVec.extractLsb'_append_eq_right
  have h1 : (b3 ++ b2 ++ b1 ++ b0).extractLsb' 8 8 = b1 :=
    (BitVec.extractLsb'_append_eq_of_le (by decide)).trans BitVec.extractLsb'_append_eq_right
  have h2 : (b3 ++ b2 ++ b1 ++ b0).extractLsb' 16 8 = b2 :=
    (BitVec.extractLsb'_append_eq_of_le (by decide)).trans <|
      (BitVec.extractLsb'_append_eq_of_le (by decide)).trans BitVec.extractLsb'_append_eq_right
  have h3 : (b3 ++ b2 ++ b1 ++ b0).extractLsb' 24 8 = b3 :=
    (BitVec.extractLsb'_append_eq_of_le (by decide)).trans <|
      (BitVec.extractLsb'_append_eq_of_le (by decide)).trans BitVec.extractLsb'_append_eq_left
  rw [wordBytes, h0, h1, h2, h3]

/-- The four words of the key script hold its 16 bytes in register order (R43, R112). -/
theorem wordBytes_keyWords {K : Bytes} (hK : K.length = 16) :
    wordBytes (bytesWord K 0) ++ wordBytes (bytesWord K 4) ++ wordBytes (bytesWord K 8) ++
      wordBytes (bytesWord K 12) = K := by
  have hlist : (List.range 16).map (fun i => K.getD i 0) = K := by
    apply List.ext_getElem
    · simp [hK]
    · intro i hi hi'
      simp [hi']
  simp only [bytesWord, wordBytes_append]
  exact hlist

/-- The register KEYj. -/
def keyReg : Fin 4 → Reg
  | 0 => .key0
  | 1 => .key1
  | 2 => .key2
  | 3 => .key3

/-- The effect of a write of KEYj that is not dropped (R44). -/
def storeKey (j : Fin 4) (v : Word) (s : State) : State :=
  { s with
    key0 := if j = 0 then v else s.key0, key1 := if j = 1 then v else s.key1
    key2 := if j = 2 then v else s.key2, key3 := if j = 3 then v else s.key3
    kw := s.kw ||| 1#4 <<< j.val }

theorem writeReg_keyReg (j : Fin 4) (v : Word) (s : State) :
    writeReg (keyReg j) v s = whenIdle (storeKey j v) s := by
  match j with
  | 0 | 1 | 2 | 3 => rfl

/-- The state after the step that does such a write. -/
def keyWritten (j : Fin 4) (v : Word) (rest : List EnvEvent) (s : State) : State :=
  { storeKey j v (takeEvent rest s) with resp := some .ok }

@[simp] theorem keyWritten_rstN (j : Fin 4) (v : Word) (rest : List EnvEvent) (s : State) :
    (keyWritten j v rest s).rstN = s.rstN := rfl
@[simp] theorem keyWritten_busy (j : Fin 4) (v : Word) (rest : List EnvEvent) (s : State) :
    (keyWritten j v rest s).busy = s.busy := rfl
@[simp] theorem keyWritten_env (j : Fin 4) (v : Word) (rest : List EnvEvent) (s : State) :
    (keyWritten j v rest s).env = rest := rfl
@[simp] theorem keyWritten_inLen (j : Fin 4) (v : Word) (rest : List EnvEvent) (s : State) :
    (keyWritten j v rest s).inLen = s.inLen := rfl
@[simp] theorem keyWritten_ibuf (j : Fin 4) (v : Word) (rest : List EnvEvent) (s : State) :
    (keyWritten j v rest s).ibuf = s.ibuf := rfl
@[simp] theorem keyWritten_resets (j : Fin 4) (v : Word) (rest : List EnvEvent) (s : State) :
    (keyWritten j v rest s).resets = s.resets := rfl
@[simp] theorem keyWritten_key0 (j : Fin 4) (v : Word) (rest : List EnvEvent) (s : State) :
    (keyWritten j v rest s).key0 = if j = 0 then v else s.key0 := rfl
@[simp] theorem keyWritten_key1 (j : Fin 4) (v : Word) (rest : List EnvEvent) (s : State) :
    (keyWritten j v rest s).key1 = if j = 1 then v else s.key1 := rfl
@[simp] theorem keyWritten_key2 (j : Fin 4) (v : Word) (rest : List EnvEvent) (s : State) :
    (keyWritten j v rest s).key2 = if j = 2 then v else s.key2 := rfl
@[simp] theorem keyWritten_key3 (j : Fin 4) (v : Word) (rest : List EnvEvent) (s : State) :
    (keyWritten j v rest s).key3 = if j = 3 then v else s.key3 := rfl
@[simp] theorem keyWritten_kw (j : Fin 4) (v : Word) (rest : List EnvEvent) (s : State) :
    (keyWritten j v rest s).kw = s.kw ||| 1#4 <<< j.val := rfl

theorem step_wr_keyReg {s : State} (j : Fin 4) {v : Word} {rest : List EnvEvent} (hr : s.rstN = true)
    (hb : s.busy = false) (he : s.env = Script.wr (keyReg j) v :: rest) :
    step s = .next (keyWritten j v rest s) := by
  have hb' : (takeEvent rest s).busy = false := hb
  rw [step_wr hr ⟨he, .inr (.inl hb)⟩, writeReg_keyReg, whenIdle_idle _ hb', keyWritten]

/-- Setting each of the four bits in turn makes KW all ones. -/
theorem kw_or_all (kw : BitVec 4) : kw ||| 1#4 ||| 2#4 ||| 4#4 ||| 8#4 = 0b1111 := by
  rw [BitVec.or_assoc, BitVec.or_assoc, BitVec.or_assoc]
  exact BitVec.or_allOnes

/-- Settles O43: the four writes of the script are four steps, and they leave its four words and all of KW
set. -/
theorem keyScriptLoadsTheKey : Obligations.KeyScriptLoadsTheKey := by
  intro s K hK hr hb he
  refine ⟨_,
    calc Sys2Proof.core.run 4 s
      _ = Sys2Proof.core.run 3 _ := core_run_succ 3 (step_wr_keyReg 0 hr hb he)
      _ = Sys2Proof.core.run 2 _ :=
        core_run_succ 2 (step_wr_keyReg 1 (by simpa using hr) (by simpa using hb) (keyWritten_env ..))
      _ = Sys2Proof.core.run 1 _ :=
        core_run_succ 1 (step_wr_keyReg 2 (by simpa using hr) (by simpa using hb) (keyWritten_env ..))
      _ = Sys2Proof.core.run 0 _ :=
        core_run_succ 0 (step_wr_keyReg 3 (by simpa using hr) (by simpa using hb) (keyWritten_env ..)),
    ?key, ?valid, by simp, by simpa using hb, by simp, by simp [ibufByte]⟩
  case key => simpa [keyBytes] using wordBytes_keyWords hK
  case valid => exact (keyValid_iff _).2 (by simpa using kw_or_all s.kw)

/-! ## Reset -/

/-- Settles O51. -/
theorem resetLeavesTheListedValues : Obligations.ResetLeavesTheListedValues := by
  intro n hn
  have hsize : (regValue (State.resetWith n) .bufsz).toNat = n := by
    obtain ⟨-, -, hmax⟩ := (nBufLegal_iff n).1 hn
    simp [regValue, State.resetWith]
    omega
  have hstatus : statusWord (State.resetWith n) = 0 := by simp [statusWord, State.resetWith, keyValid]
  have hkey : keyBytes (State.resetWith n) = List.replicate 16 0 := by
    simp [keyBytes, State.resetWith, wordBytes, List.replicate]
  exact ⟨rfl, hsize, rfl, hstatus, rfl, rfl, rfl, rfl, hkey, rfl, fun _ => rfl, fun _ => rfl, rfl, rfl⟩

end Sys2Proof.Machine
end

section
/-! The results while the block is idle (10_state.md R42, 70_reset_and_hazards.md R307). -/

namespace Sys2Proof.Machine

/-- The result registers, OUT_LEN and the storage of OBUF are the same in t as in s. -/
def SameResults (s t : State) : Prop :=
  t.res = s.res ∧ t.outLen = s.outLen ∧ t.obuf = s.obuf ∧ t.resets = s.resets

theorem SameResults.obufRead {s t : State} (h : SameResults s t) (i : Nat) : obufRead t i = obufRead s i := by
  obtain ⟨-, hlen, hobuf, hresets⟩ := h
  simp only [Sys2Proof.Machine.obufRead, obufByte, hlen, hobuf, hresets]

/-- A legal write is an acceptance, or it leaves the results alone. -/
theorem writeTarget_results (n : Width) (tgt : Target) (v : Word) (s : State) :
    (tgt = .reg .cmd ∧ s.busy = false ∧ writeTarget n tgt v s = accept v s) ∨
      SameResults s (writeTarget n tgt v s) := by
  rcases writeTarget_cases n tgt v s with ⟨-, hw⟩ | hw | ⟨i, -, -, hw⟩ | ⟨_, _, _, _, _, _, _, _, hw⟩
  · rw [hw, writeStatus_eq]
    exact .inr ⟨rfl, rfl, rfl, rfl⟩
  · exact .inl hw
  · exact .inr (hw ▸ ⟨rfl, rfl, rfl, rfl⟩)
  · exact .inr (hw ▸ ⟨rfl, rfl, rfl, rfl⟩)

/-- An answered transaction is an accepted write of CMD, or it leaves the results alone. -/
theorem transact_results {tx : Txn} {s t : State} (h : transact tx s = .next t) :
    (t.busy = true ∧ ∃ addr n v, tx = .write addr n v ∧ resolve s n addr = some (.reg .cmd)) ∨
      SameResults s t := by
  rcases transact_cases tx s with ⟨-, -, he⟩ | ⟨-, -, he⟩ | ⟨-, he⟩ <;> rw [he] at h <;> cases h
  · rcases portAccess_cases tx s with hp | ⟨addr, n, tgt, -, -, hp⟩ | ⟨addr, n, v, tgt, htx, ht, hp⟩ <;>
      simp only [hp]
    · exact .inr ⟨rfl, rfl, rfl, rfl⟩
    · rcases readTarget_state n tgt s with hs | ⟨-, hs⟩ <;> simp only [hs] <;>
        exact .inr ⟨rfl, rfl, rfl, rfl⟩
    · rcases writeTarget_results n tgt v s with ⟨rfl, -, hw⟩ | hw
      · exact .inl ⟨by simp [hw], addr, n, v, htx, ht⟩
      · exact .inr hw
  · exact .inr ⟨rfl, rfl, rfl, rfl⟩

/-- Settles O57: an idle block has no completion to make, and of the events of the outside world only an
accepted write of CMD and the fall of `rst_n` touch the results. -/
theorem resultsStayUntilAcceptanceOrReset : Obligations.ResultsStayUntilAcceptanceOrReset := by
  intro s t hb hs hchange
  have hsame : ¬ SameResults s t := fun h => by
    have hread := h.obufRead
    obtain ⟨hres, hlen, -, -⟩ := h
    rcases hchange with hne | hne | ⟨i, hne⟩
    · exact hne hres
    · exact hne hlen
    · exact hne (hread i)
  rcases step_next hs with ⟨⟨-, hbusy, -⟩, -⟩ | ⟨e, rest, ⟨hm, -⟩, he⟩ | ⟨-, -, rfl⟩
  · simp [hb] at hbusy
  · rcases envStep_next he with ⟨rfl, -⟩ | ⟨-, rfl⟩ | ⟨tx, rfl, hx⟩ | ⟨r, s', env, -, hx, rfl⟩
    · exact .inr ⟨rest, hm⟩
    · exact absurd ⟨rfl, rfl, rfl, rfl⟩ hsame
    · rcases transact_results hx with ⟨ht, addr, n, v, rfl, hcmd⟩ | h
      · exact .inl ⟨ht, addr, n, v, rest, hm, hcmd⟩
      · exact absurd h hsame
    · rcases transact_results hx with ⟨-, addr, n, v, htx, -⟩ | h
      · cases htx
      · exact absurd h hsame
  · exact absurd ⟨rfl, rfl, rfl, rfl⟩ hsame

end Sys2Proof.Machine
end

section
/-! The memory map and the bus of 20_memory.md: which accesses are legal (R70-R76), what a buffer access
reads and stores (R77, R79), that reads and bus errors change nothing (R75, R82), and that the operands of a
running command stay what they are (R86). -/

namespace Sys2Proof.Machine

/-! ## The aperture and the legal accesses -/

theorem base_eq_mul : ∃ k, Config.base = k * Config.apertureBytes := ⟨Config.baseIndex, rfl⟩

/-- An access to bus address A reaches the offset a exactly as A lies a bytes into the aperture (R70). -/
theorem apertureOffset_bus_iff (A a : Nat) :
    apertureOffset (.bus A) = some a ↔ A = Config.base + a ∧ a < Config.apertureBytes := by
  simp only [apertureOffset, Option.ite_none_right_eq_some, Option.some.injEq]
  omega

/-- Settles O50. -/
theorem apertureIsAtBase : Obligations.ApertureIsAtBase := by
  refine ⟨?aligned, apertureOffset_bus_iff⟩
  obtain ⟨k, hk⟩ := base_eq_mul
  rw [hk]
  exact Nat.mul_mod_left k Config.apertureBytes

theorem Width.bytes_eq_four_iff (n : Width) : n.bytes = 4 ↔ n = .word := by cases n <;> decide

theorem Width.bytes_le_four (n : Width) : n.bytes ≤ 4 := by cases n <;> decide

/-- The accesses inside the N_BUF bytes of a window, by the index they reach: both windows start at a multiple
of every access width, so alignment is a matter of the index (R73, R76). -/
theorem Width.in_window_iff (n : Width) (k nBuf a i : Nat) :
    (a % n.bytes = 0 ∧ (k * 0x10000 ≤ a ∧ a + n.bytes ≤ k * 0x10000 + nBuf) ∧ a - k * 0x10000 = i) ↔
      a = k * 0x10000 + i ∧ i + n.bytes ≤ nBuf ∧ i % n.bytes = 0 := by
  cases n <;> simp only [Width.bytes] <;> omega

/-- The two tables of R21 agree. -/
theorem Reg.ofOffset_eq_some_iff (a : Nat) (r : Reg) : Reg.ofOffset a = some r ↔ a = r.offset := by
  constructor
  · intro h
    unfold Reg.ofOffset at h
    split at h <;> cases h <;> rfl
  · rintro rfl
    cases r <;> rfl

theorem Reg.offset_in_page (r : Reg) : r.offset < 0x100 ∧ r.offset % 4 = 0 := by cases r <;> decide

theorem accessTarget_page (nBuf : Nat) (n : Width) {a : Nat} (h : a < 0x100) :
    accessTarget nBuf n a = if n = .word ∧ a % 4 = 0 then (Reg.ofOffset a).map .reg else none := by
  simp only [accessTarget, h, if_true, Width.bytes_eq_four_iff]

theorem accessTarget_window (nBuf : Nat) (n : Width) {a : Nat} (h : 0x100 ≤ a) :
    accessTarget nBuf n a =
      if a % n.bytes = 0 then
        if 0x10000 ≤ a ∧ a + n.bytes ≤ 0x10000 + nBuf then some (.ibuf (a - 0x10000))
        else if 0x20000 ≤ a ∧ a + n.bytes ≤ 0x20000 + nBuf then some (.obuf (a - 0x20000))
        else none
      else none := by
  rw [accessTarget, if_neg (by omega), ite_not]

/-- The register page takes word accesses at the registers' offsets and nothing else (R74). -/
theorem accessTarget_eq_reg_iff (nBuf : Nat) (n : Width) (a : Nat) (r : Reg) :
    accessTarget nBuf n a = some (.reg r) ↔ n = .word ∧ a = r.offset := by
  have hr := r.offset_in_page
  rcases Nat.lt_or_ge a 0x100 with h | h
  · rw [accessTarget_page nBuf n h, ← Reg.ofOffset_eq_some_iff]
    split_ifs with hw
    · simp [hw]
    · simp only [Reg.ofOffset_eq_some_iff, false_iff]
      rintro ⟨hn, rfl⟩
      exact hw ⟨hn, hr.2⟩
  · rw [accessTarget_window nBuf n h]
    have ha : a ≠ r.offset := by omega
    split_ifs <;> simp [ha]

/-- No access to the register page reaches a buffer. -/
theorem accessTarget_page_reg {nBuf : Nat} {n : Width} {a : Nat} {tgt : Target} (h : a < 0x100)
    (ht : accessTarget nBuf n a = some tgt) : ∃ r, tgt = .reg r := by
  rw [accessTarget_page nBuf n h] at ht
  split_ifs at ht
  obtain ⟨r, -, rfl⟩ := Option.map_eq_some_iff.1 ht
  exact ⟨r, rfl⟩

/-- The IBUF window takes naturally aligned accesses inside the N_BUF bytes from 0x10000 on (R73, R76). -/
theorem accessTarget_eq_ibuf_iff (nBuf : Nat) (n : Width) (a i : Nat) :
    accessTarget nBuf n a = some (.ibuf i) ↔
      a = 0x10000 + i ∧ i + n.bytes ≤ nBuf ∧ i % n.bytes = 0 := by
  rcases Nat.lt_or_ge a 0x100 with h | h
  · refine ⟨fun ht => ?_, fun ⟨ha, _⟩ => by omega⟩
    obtain ⟨r, hr⟩ := accessTarget_page_reg h ht
    cases hr
  · have hwin := n.in_window_iff 1 nBuf a i
    rw [Nat.one_mul] at hwin
    rw [accessTarget_window nBuf n h, ← hwin]
    split_ifs with hal hi ho <;> simp [*]

/-- The OBUF window takes naturally aligned accesses inside the N_BUF bytes from 0x20000 on: a legal N_BUF
keeps the IBUF window below it (R73, R76). -/
theorem accessTarget_eq_obuf_iff {nBuf : Nat} (hn : nBuf ≤ 0x10000) (n : Width) (a i : Nat) :
    accessTarget nBuf n a = some (.obuf i) ↔
      a = 0x20000 + i ∧ i + n.bytes ≤ nBuf ∧ i % n.bytes = 0 := by
  rcases Nat.lt_or_ge a 0x100 with h | h
  · refine ⟨fun ht => ?_, fun ⟨ha, _⟩ => by omega⟩
    obtain ⟨r, hr⟩ := accessTarget_page_reg h ht
    cases hr
  · have hwin : _ ↔ a = 0x20000 + i ∧ i + n.bytes ≤ nBuf ∧ i % n.bytes = 0 :=
      n.in_window_iff 2 nBuf a i
    have hpos : 0 < n.bytes := by cases n <;> decide
    rw [accessTarget_window nBuf n h, ← hwin]
    split_ifs with hal hi
    · have hbelow : ¬ 0x20000 ≤ a := by omega
      simp [hbelow]
    all_goals simp [*]

/-- Settles O48. -/
theorem legalAccessesAreTheListedOnes : Obligations.LegalAccessesAreTheListedOnes := by
  intro nBuf n a hlegal
  obtain ⟨-, -, hn⟩ := (nBufLegal_iff nBuf).1 hlegal
  exact ⟨accessTarget_eq_reg_iff nBuf n a, accessTarget_eq_ibuf_iff nBuf n a,
    accessTarget_eq_obuf_iff hn n a⟩

/-! ## Bus errors and the state after a read -/

/-- An access that reaches nothing is answered by the bus error, and the block keeps its state (R75). -/
theorem portAccess_unresolved {s : State} {addr : BusAddr} {n : Width} (h : resolve s n addr = none) :
    portAccess (.read addr n) s = (.busError, s) ∧
      ∀ v, portAccess (.write addr n v) s = (.busError, s) := by
  simp [portAccess, h]

/-- A transaction that the port answers with a bus error ends the run of the model. -/
theorem step_busError {s : State} {tx : Txn} {rest : List EnvEvent} (hr : s.rstN = true)
    (hm : s.HostMoves (.access tx) rest)
    (hp : portAccess tx (takeEvent rest s) = (.busError, takeEvent rest s)) :
    step s = .fault tx.busFault := by
  simp [step_host hm, envStep, transact, hr, hp]

/-- Settles O49. -/
theorem busErrorChangesNothing : Obligations.BusErrorChangesNothing := by
  intro s addr n v rest h
  obtain ⟨hread, hwrite⟩ := portAccess_unresolved h
  have h' : resolve (takeEvent rest s) n addr = none := h
  obtain ⟨hread', hwrite'⟩ := portAccess_unresolved h'
  exact ⟨hread, hwrite v, fun hr hm => step_busError hr hm hread',
    fun hr hm => step_busError hr hm (hwrite' v)⟩

/-- A read that draws no free value leaves the state as it is (R42, R82). -/
theorem readTarget_settled (n : Width) {tgt : Target} {s : State}
    (h : s.busy = false ∨ ∀ r, tgt = .reg r → r.isResult = false) : (readTarget n tgt s).2 = s := by
  cases tgt with
  | reg r => exact congrArg Prod.snd (readReg_settled (h.imp_right fun hr => hr r rfl))
  | ibuf i => rfl
  | obuf i => rfl

/-- Settles O39. -/
theorem readsHaveNoSideEffect : Obligations.ReadsHaveNoSideEffect := by
  intro s addr n
  cases ht : resolve s n addr with
  | none =>
    obtain ⟨hread, -⟩ := portAccess_unresolved ht
    rw [hread]
    exact ⟨⟨s.draws, rfl⟩, fun _ => rfl⟩
  | some tgt =>
    rw [portAccess_read ht]
    refine ⟨?_, fun h => readTarget_settled n (h.imp_right fun hr r htgt => hr r (congrArg some htgt))⟩
    rcases readTarget_state n tgt s with hs | ⟨-, hs⟩ <;> exact ⟨_, hs⟩

/-! ## Buffer reads and writes -/

/-- The digits of a little-endian value do not carry out of it. -/
theorem littleEndian_sum_lt (f : Nat → Byte) (n : Nat) :
    ((List.range n).map (fun j => (f j).toNat * 256 ^ j)).sum < 256 ^ n := by
  induction n with
  | zero => simp
  | succ n ih =>
    have hbyte : (f n).toNat * 256 ^ n ≤ 255 * 256 ^ n :=
      Nat.mul_le_mul_right _ (Nat.le_of_lt_succ (f n).isLt)
    rw [List.range_succ, List.map_append, List.sum_append, List.map_singleton, List.sum_singleton]
    omega

/-- The first byte of a little-endian value is its lowest digit. -/
theorem littleEndian_sum_succ (f : Nat → Nat) (n : Nat) :
    ((List.range (n + 1)).map (fun j => f j * 256 ^ j)).sum =
      f 0 + 256 * ((List.range n).map (fun j => f (j + 1) * 256 ^ j)).sum := by
  rw [List.range_succ_eq_map, List.map_cons, List.sum_cons, List.map_map, ← List.sum_map_mul_left]
  simp only [Function.comp_def, pow_succ, pow_zero, mul_one, Nat.succ_eq_add_one]
  congr 3
  funext j
  ring

/-- A read of up to four bytes is their little-endian value, unreduced (R77). -/
theorem readLE_toNat (f : Nat → Byte) (i : Nat) {n : Nat} (hn : n ≤ 4) :
    (readLE f i n).toNat = ((List.range n).map (fun j => (f (i + j)).toNat * 256 ^ j)).sum := by
  induction n generalizing i with
  | zero => rfl
  | succ n ih =>
    have hlt : (readLE f (i + 1) n).toNat < 256 ^ 3 := by
      rw [ih _ (by omega)]
      exact (littleEndian_sum_lt (fun j => f (i + 1 + j)) n).trans_le
        (Nat.pow_le_pow_right (by omega) (by omega))
    have hbyte := (f i).isLt
    calc (readLE f i (n + 1)).toNat
        = (f i).toNat + 256 * (readLE f (i + 1) n).toNat := by
          simp only [readLE, BitVec.toNat_add, BitVec.toNat_setWidth, BitVec.toNat_shiftLeft,
            Nat.shiftLeft_eq]
          omega
      _ = _ := by
          rw [ih _ (by omega), littleEndian_sum_succ (fun j => (f (i + j)).toNat)]
          simp only [Nat.add_zero, Nat.add_assoc, Nat.add_comm 1]

theorem obufRead_toNat (s : State) (i : Nat) :
    (obufRead s i).toNat = if i < s.outLen.toNat then (obufByte s i).toNat else 0 := by
  unfold obufRead
  split <;> rfl

/-- Settles O47. -/
theorem bufferReadsAreLittleEndian : Obligations.BufferReadsAreLittleEndian := by
  intro s n a i
  refine ⟨fun ht => ⟨_, portAccess_read ht, readLE_toNat _ i n.bytes_le_four⟩,
    fun ht => ⟨_, portAccess_read ht, ?_⟩⟩
  simp only [readTarget, readLE_toNat _ i n.bytes_le_four, obufRead_toNat]

/-- Byte j of a word, counted from its least significant one, as a number. -/
theorem byte_toNat (v : Word) (j : Nat) :
    ((v >>> (8 * j)).setWidth 8).toNat = v.toNat / 256 ^ j % 256 := by
  rw [BitVec.toNat_setWidth, BitVec.toNat_ushiftRight, Nat.shiftRight_eq_div_pow, Nat.pow_mul]

/-- The step of a write to IBUF while the block is idle. -/
theorem step_write_ibuf {s : State} {rest : List EnvEvent} {addr : BusAddr} {n : Width} {v : Word} {i : Nat}
    (hr : s.rstN = true) (hb : s.busy = false) (hm : s.HostMoves (.access (.write addr n v)) rest)
    (ht : resolve s n addr = some (.ibuf i)) :
    step s = .next { s.afterEvent rest .ok with ibuf := writeLE s.ibuf i n.bytes v } := by
  have hb' : (takeEvent rest s).busy = false := hb
  rw [step_write hr hm ht, writeTarget, whenIdle_idle _ hb']
  rfl

/-- IBUF after that step: the stored bytes, and every other byte as it was (R77, R79). -/
theorem ibufByte_afterEvent_writeLE (s : State) (rest : List EnvEvent) (r : BusResponse) (i n : Nat)
    (v : Word) (k : Nat) :
    ibufByte { s.afterEvent rest r with ibuf := writeLE s.ibuf i n v } k =
      if i ≤ k ∧ k < i + n then (v >>> (8 * (k - i))).setWidth 8 else ibufByte s k := by
  simp only [ibufByte, State.afterEvent, Memory.get?_writeLE]
  split <;> rfl

/-- Settles O46. -/
theorem ibufWriteStoresItsBytes : Obligations.IbufWriteStoresItsBytes := by
  intro s v n a i rest hr hb hm ht
  refine ⟨_, step_write_ibuf hr hb hm ht, rfl, fun k hk hk' => ?_, fun k hk => ?_⟩
  · rw [ibufByte_afterEvent_writeLE, if_pos ⟨hk, hk'⟩, byte_toNat]
  · rw [ibufByte_afterEvent_writeLE, if_neg (by omega)]

/-! ## The operands of a running command -/

theorem SameOperands.refl (s : State) : SameOperands s s := ⟨rfl, rfl, rfl, rfl, rfl, fun _ => rfl⟩

/-- t is s but for CTRL.IE and the STATUS bits that the host may clear, or set by a dropped write, at any
time. -/
def FlagsOnly (s t : State) : Prop :=
  ∃ ie done err wrBusy errcode cfgsub, t = { s with
    ie := ie, done := done, err := err, wrBusy := wrBusy, errcode := errcode, cfgsub := cfgsub }

theorem FlagsOnly.refl (s : State) : FlagsOnly s s := ⟨_, _, _, _, _, _, rfl⟩

theorem FlagsOnly.whenIdle {s : State} (w : State → State) (hb : s.busy = true) :
    FlagsOnly s (whenIdle w s) :=
  whenIdle_busy w hb ▸ ⟨_, _, _, _, _, _, rfl⟩

/-- While a command runs, a register write reaches no operand: the writes of CMD, IN_LEN and the key are
dropped, and so is the key clear of CTRL (R300). -/
theorem writeReg_busy (r : Reg) (v : Word) {s : State} (hb : s.busy = true) :
    FlagsOnly s (writeReg r v s) := by
  cases r with
  | ctrl =>
    rw [writeReg, writeCtrl_eq, if_pos hb]
    split <;> exact ⟨_, _, _, _, _, _, rfl⟩
  | status =>
    rw [writeReg, writeStatus_eq]
    exact ⟨_, _, _, _, _, _, rfl⟩
  | cmd | inLen | key0 | key1 | key2 | key3 =>
    simp only [writeReg]
    exact .whenIdle _ hb
  | id | bufsz | outLen | fmtVer | fwVer | dataSize | crcStored | crcCalc | dataLen => exact .refl s

theorem writeTarget_busy (n : Width) (tgt : Target) (v : Word) {s : State} (hb : s.busy = true) :
    FlagsOnly s (writeTarget n tgt v s) := by
  cases tgt with
  | reg r => exact writeReg_busy r v hb
  | ibuf i =>
    simp only [writeTarget]
    exact .whenIdle _ hb
  | obuf i => exact .refl s

/-- No transaction ends a running command or changes what it reads. -/
theorem transact_busy {tx : Txn} {s t : State} (hb : s.busy = true) (h : transact tx s = .next t) :
    t.busy = true ∧ SameOperands s t := by
  rcases transact_cases tx s with ⟨-, -, he⟩ | ⟨-, -, he⟩ | ⟨-, he⟩ <;> rw [he] at h <;> cases h
  · rcases portAccess_cases tx s with hp | ⟨addr, n, tgt, -, -, hp⟩ | ⟨addr, n, v, tgt, -, -, hp⟩ <;>
      simp only [hp]
    · exact ⟨hb, .refl s⟩
    · rcases readTarget_state n tgt s with hs | ⟨-, hs⟩ <;> simp only [hs] <;> exact ⟨hb, .refl s⟩
    · obtain ⟨_, _, _, _, _, _, hw⟩ := writeTarget_busy n tgt v hb
      simp only [hw]
      exact ⟨hb, .refl s⟩
  · exact ⟨hb, .refl s⟩

/-- Settles O55: a completion and the fall of `rst_n` end the command, and no other event of the outside world
reaches its operands. -/
theorem operandsAreStableWhileBusy : Obligations.OperandsAreStableWhileBusy := by
  intro s t hb hs hbt
  rcases step_next hs with ⟨-, o, rfl, -⟩ | ⟨e, rest, -, he⟩ | ⟨-, -, rfl⟩
  · obtain ⟨hidle, -, -⟩ := complete_ends o s
    simp [hidle] at hbt
  · have hb' : (takeEvent rest s).busy = true := hb
    rcases envStep_next he with ⟨-, rfl⟩ | ⟨-, rfl⟩ | ⟨tx, -, hx⟩ | ⟨r, s', env, -, hx, rfl⟩
    · simp at hbt
    · exact .refl s
    · exact (transact_busy hb' hx).2
    · exact (transact_busy hb' hx).2
  · exact .refl _

end Sys2Proof.Machine
end

section
/-! The command word of 30_encoding.md: decoding and encoding are inverse to each other, and the legal words are
the words of the commands (R100-R107). -/

namespace Sys2Proof

/-! ## The fields of a word -/

theorem opField_toNat (v : Word) : (opField v).toNat = v.toNat % 256 := by
  simp [opField]

theorem opField_eq_iff (v : Word) (op : BitVec 8) : opField v = op ↔ v.toNat % 256 = op.toNat := by
  rw [← BitVec.toNat_inj, opField_toNat]

theorem rsvField_eq_zero_iff (v : Word) : rsvField v = 0 ↔ v.toNat / 1024 = 0 := by
  have hv := v.isLt
  rw [← BitVec.toNat_inj]
  simp only [rsvField, BitVec.extractLsb'_toNat, Nat.shiftRight_eq_div_pow, BitVec.ofNat_eq_ofNat,
    BitVec.toNat_ofNat]
  omega

/-- DC and RH together are the bits [9:8] (R102, R103). -/
theorem flagBits_eq_zero_iff (v : Word) :
    v.extractLsb' 8 2 = 0 ↔ dcField v = false ∧ rhField v = false := by
  refine ⟨fun h => ⟨?_, ?_⟩, fun ⟨hdc, hrh⟩ => ?_⟩
  · simpa [dcField] using congrArg (·.getLsbD 0) h
  · simpa [rhField] using congrArg (·.getLsbD 1) h
  · refine BitVec.eq_of_getLsbD_eq fun i hi => ?_
    match i with
    | 0 => simpa [dcField] using hdc
    | 1 => simpa [rhField] using hrh

theorem flagFields_eq_false_iff (v : Word) :
    dcField v = false ∧ rhField v = false ↔ v.toNat / 256 % 4 = 0 := by
  rw [← flagBits_eq_zero_iff, ← BitVec.toNat_inj]
  simp [Nat.shiftRight_eq_div_pow]

/-- A word with RSV zero is packed from its own fields (R100). -/
theorem packFields_fields {v : Word} (h : rsvField v = 0) :
    packFields (opField v) (dcField v) (rhField v) = v := by
  refine BitVec.eq_of_getLsbD_eq fun i hi => ?_
  rw [packFields, BitVec.getLsbD_append, BitVec.getLsbD_append, BitVec.getLsbD_append]
  rcases Nat.lt_or_ge i 8 with hop | hop
  · simp [opField, hop]
  rcases Nat.lt_or_ge i 10 with hflag | hrsv
  · have hi : i = 8 ∨ i = 9 := by omega
    rcases hi with rfl | rfl
    · simp [dcField]
    · simp [rhField]
  · have hbit : v.getLsbD i = false := by
      have := congrArg (·.getLsbD (i - 10)) h
      simpa [rsvField, Nat.add_sub_cancel' hrsv, show i - 10 < 22 by omega] using this
    have h8 : ¬ i < 8 := by omega
    have h9 : ¬ i - 8 < 1 := by omega
    have h10 : ¬ i - 8 - 1 < 1 := by omega
    simp [h8, h9, h10, hbit]

/-! ## Legality -/

theorem opcodeListed_iff (v : Word) :
    opcodeListed v = true ↔ 1 ≤ (opField v).toNat ∧ (opField v).toNat ≤ 7 := by
  simp only [opcodeListed, opField, List.contains_iff_mem, List.mem_cons, List.not_mem_nil, or_false]
  omega

theorem flagsAllowed_iff (v : Word) :
    flagsAllowed v = true ↔ opField v = 1 ∨ (dcField v = false ∧ rhField v = false) := by
  rw [← flagBits_eq_zero_iff]
  simp [flagsAllowed, opField]

/-- R105 in the fields that the decoder reads. -/
theorem legal_iff_fields (v : Word) :
    legal v = true ↔
      rsvField v = 0 ∧ (1 ≤ (opField v).toNat ∧ (opField v).toNat ≤ 7) ∧
        (opField v = 1 ∨ (dcField v = false ∧ rhField v = false)) := by
  rw [← opcodeListed_iff, ← flagsAllowed_iff]
  simp [legal, reservedBitsZero, rsvField, and_assoc]

/-! ## Decoding -/

theorem decodeFlagless_eq_ok_iff (v : Word) (i j : Instr) :
    decodeFlagless v i = .ok j ↔ i = j ∧ dcField v = false ∧ rhField v = false := by
  unfold decodeFlagless
  cases dcField v <;> cases rhField v <;> simp

/-- The decoder inverts the encoder from the left: each accepting branch of the decoder has found every field of
its command's word. -/
theorem eq_encode_of_decode {v : Word} {i : Instr} (h : decode v = .ok i) : v = encode i := by
  unfold decode at h
  split at h
  · cases h
  · rename_i hrsv
    have hv : packFields (BitVec.ofNat 8 (opField v).toNat) (dcField v) (rhField v) = v := by
      rw [BitVec.ofNat_toNat, BitVec.setWidth_eq, packFields_fields (not_not.1 hrsv)]
    split at h
    case h_8 => cases h
    case h_1 hop =>
      cases h
      rw [hop] at hv
      exact hv.symm
    all_goals
      rename_i hop
      obtain ⟨rfl, hdc, hrh⟩ := (decodeFlagless_eq_ok_iff _ _ _).1 h
      rw [hop, hdc, hrh] at hv
      exact hv.symm

/-- The encoding of a command is legal and decodes to it, from the laws of the single commands. -/
theorem encode_legal_decode (i : Instr) : legal (encode i) = true ∧ decode (encode i) = .ok i := by
  have hlaw : Laws.EncodingLegal.Statement i := by
    cases i with
    | unpack dc rh => exact Laws.EncodingLegal.unpack dc rh
    | reverse => exact Laws.EncodingLegal.reverse
    | ecbdec => exact Laws.EncodingLegal.ecbdec
    | parse => exact Laws.EncodingLegal.parse
    | verify => exact Laws.EncodingLegal.verify
    | crc16 => exact Laws.EncodingLegal.crc16
    | strip => exact Laws.EncodingLegal.strip
  obtain ⟨hlegal, -, hdecode⟩ := hlaw (by cases i <;> rfl)
  exact ⟨hlegal, hdecode⟩

/-- Settles O3. -/
theorem decodeInvertsEncode : Obligations.DecodeInvertsEncode := fun _ i =>
  ⟨eq_encode_of_decode, fun h => h ▸ (encode_legal_decode i).2⟩

/-- A legal word passes every check of the decoder. -/
theorem exists_decode_of_legal {v : Word} (h : legal v = true) : ∃ i, decode v = .ok i := by
  obtain ⟨hrsv, hop, hflags⟩ := (legal_iff_fields v).1 h
  unfold decode
  rw [if_neg (not_not.2 hrsv)]
  split
  case h_1 => exact ⟨_, rfl⟩
  case h_8 => grind -- OP is none of 1 to 7, against hop
  all_goals
    rename_i hk
    have hnot : opField v ≠ 1 := fun h1 => by simp [h1] at hk
    exact ⟨_, (decodeFlagless_eq_ok_iff _ _ _).2 ⟨rfl, hflags.resolve_left hnot⟩⟩

theorem legal_iff_exists_decode (v : Word) : legal v = true ↔ ∃ i, decode v = .ok i := by
  refine ⟨exists_decode_of_legal, fun ⟨i, hi⟩ => ?_⟩
  rw [eq_encode_of_decode hi]
  exact (encode_legal_decode i).1

/-- Settles O2. -/
theorem legalityIsTheFieldPredicate : Obligations.LegalityIsTheFieldPredicate := by
  refine fun v => ⟨?_, legal_iff_exists_decode v⟩
  rw [legal_iff_fields, rsvField_eq_zero_iff, opField_toNat, opField_eq_iff, flagFields_eq_false_iff]
  rfl

theorem illegal_iff_exists_error (v : Word) : legal v = false ↔ ∃ e, decode v = .error e := by
  rw [← Bool.not_eq_true, legal_iff_exists_decode]
  cases decode v <;> simp

/-- Settles O1: a legal word is the encoding of a command, and the ten encodings are in the list. -/
theorem tenWordsAreLegalAndNoOther : Obligations.TenWordsAreLegalAndNoOther := by
  have dec (i : Instr) := (encode_legal_decode i).2
  refine ⟨dec (.unpack false false), dec (.unpack true false), dec (.unpack false true),
    dec (.unpack true true), dec .reverse, dec .ecbdec, dec .parse, dec .verify, dec .crc16, dec .strip,
    fun v hv => ?_⟩
  have hillegal : legal v = false := by
    rw [← Bool.not_eq_true, legal_iff_exists_decode]
    rintro ⟨i, hi⟩
    refine hv (eq_encode_of_decode hi ▸ ?_)
    cases i with
    | unpack dc rh => cases dc <;> cases rh <;> decide
    | reverse | ecbdec | parse | verify | crc16 | strip => decide
  exact ⟨hillegal, (illegal_iff_exists_error v).1 hillegal⟩

/-- Settles O4: the three legal words are encodings, and each of the others fails one check of the decoder. -/
theorem sampleWordsDecode : Obligations.SampleWordsDecode := by
  have dec (i : Instr) := (encode_legal_decode i).2
  exact ⟨dec (.unpack true false), dec (.unpack false true), dec .reverse, by decide, by decide, by decide⟩

end Sys2Proof
end

section
/-! The host's `wait` and `readout` of 30_encoding.md section 5: each is one read of a register that no draw
stands for, so its step is known exactly (R112), and the polls of `wait` end with the command (R113). -/

namespace Sys2Proof.Machine

/-! ## The steps of `wait` and `readout` -/

/-- `rd REG` of a register that shows its value, as a transaction. -/
theorem transact_rd_settled {s : State} {r : Reg} (hr : s.rstN = true)
    (h : s.busy = false ∨ r.isResult = false) :
    transact (.read (.offset r.offset) .word) s =
      .next { s with resp := some (.data (regValue s r)) } := by
  simp [transact, hr, portAccess_read (resolve_regOffset s r), readTarget, readReg_settled h]

/-- One poll of `wait`: it stays pending exactly while BUSY = 1 (R112). -/
theorem step_wait {s : State} {rest : List EnvEvent} (hr : s.rstN = true) (hm : s.HostMoves .wait rest) :
    step s = .next (s.afterEvent (if s.busy then .wait :: rest else rest) (.data (statusWord s))) := by
  have hr' : (takeEvent rest s).rstN = true := hr
  obtain ⟨hbusy, -⟩ := statusShowsItsFields (takeEvent rest s)
  rw [step_host hm, envStep, transact_rd_settled hr' (.inr rfl)]
  simp only [responseWord, regValue, hbusy, takeEvent_busy]
  split <;> rfl

/-- Settles O44. -/
theorem readoutIssuesTheByteReads : Obligations.ReadoutIssuesTheByteReads := by
  intro s rest hr hm
  have hr' : (takeEvent rest s).rstN = true := hr
  have hlen : (s.outLen.setWidth 32).toNat = s.outLen.toNat := by
    rw [BitVec.toNat_setWidth, Nat.mod_eq_of_lt (s.outLen.isLt.trans (by decide))]
  rw [step_host hm, envStep, transact_rd_settled hr' (.inr rfl)]
  simp only [responseWord, regValue, takeEvent_outLen, hlen]
  rfl

/-! ## The end of a wait -/

/-- On the engine's turn the step is the completion of some outcome. -/
theorem step_engine_complete {s : State} (h : s.EngineMoves) : ∃ o, step s = .next (complete o s) := by
  rw [step_engine h]
  cases decode s.cmd with
  | ok i => exact ⟨_, exec_eq_complete i s⟩
  | error e => exact ⟨.err .config .illegalCmd res0, rfl⟩

theorem CommandFrame.sameOperands {s t : State} (h : CommandFrame s t) : SameOperands s t := by
  obtain ⟨hnBuf, -, -, hcmd, hinLen, h0, h1, h2, h3, hkw, -, -, -, -, -, -, hibuf⟩ := h
  exact ⟨hnBuf, hcmd, hinLen, by simp only [keyBytes, h0, h1, h2, h3], hkw, hibuf⟩

/-- After n polls the latency n is used up, the engine completes the command, and one more poll ends the
wait. -/
theorem wait_ends_after_latency (n : Nat) (s : State) (rest : List EnvEvent) (hl : s.latency = n)
    (hr : s.rstN = true) (hb : s.busy = true) (he : s.env = .wait :: rest) :
    ∃ t, Sys2Proof.core.run (n + 2) s = .next t ∧ t.busy = false ∧ t.done = !t.err ∧
      t.env = rest ∧ SameOperands s t := by
  induction n generalizing s with
  | zero =>
    obtain ⟨o, ho⟩ := step_engine_complete (s := s) ⟨hr, hb, .inr hl⟩
    obtain ⟨hidle, -, hends⟩ := complete_ends o s
    have hframe := complete_frame o s
    have hsame := hframe.sameOperands
    obtain ⟨-, -, -, -, -, -, -, -, -, -, hrst, henv, -⟩ := hframe
    have hpoll := step_wait (s := complete o s) (hrst.trans hr) ⟨henv.trans he, .inr (.inl hidle)⟩
    rw [hidle] at hpoll
    exact ⟨_, (core_run_succ 1 ho).trans (core_run_succ 0 hpoll), hidle, hends, rfl, hsame⟩
  | succ n ih =>
    have hpoll := step_wait hr ⟨he, .inr (.inr (by omega))⟩
    rw [hb] at hpoll
    obtain ⟨t, hrun, ht⟩ := ih (s.afterEvent (.wait :: rest) (.data (statusWord s)))
      (by simp [State.afterEvent, hl]) hr hb rfl
    exact ⟨t, (core_run_succ (n + 2) hpoll).trans hrun, ht⟩

/-- Settles O60. -/
theorem waitEndsWithTheCommandComplete : Obligations.WaitEndsWithTheCommandComplete :=
  fun s rest => wait_ends_after_latency s.latency s rest rfl

end Sys2Proof.Machine
end

section
/-! SUPPORT. A command as the common checks before a function of its own (40_command_common.md R132): which
commands use the key, what their own functions answer, and what a completion makes of an outcome. -/

namespace Sys2Proof.Machine

/-! ## The common checks and the command's own function -/

/-- Whether the command uses the key (R135). -/
def usesKey : Instr → Bool
  | .unpack _ _ | .ecbdec => true
  | .reverse | .parse | .verify | .crc16 | .strip => false

/-- The command's own function of the operand bytes and the key bytes (R132). -/
def ownOutcome (i : Instr) (B K : Bytes) : CmdOutcome :=
  match i with
  | .unpack dc rh => unpackExec dc rh B K
  | .reverse => reverseExec B
  | .ecbdec => ecbdecExec B K
  | .parse => parseExec B
  | .verify => verifyExec B
  | .crc16 => crc16Exec B
  | .strip => stripExec B

theorem outcome_eq_checked (i : Instr) (s : State) :
    outcome i s = checked (usesKey i) (ownOutcome i) s := by
  cases i <;> rfl

theorem usesKey_iff (i : Instr) :
    usesKey i = true ↔ i = .ecbdec ∨ ∃ dc rh, i = .unpack dc rh := by
  cases i <;> simp [usesKey]

theorem usesKey_eq_false_iff (i : Instr) :
    usesKey i = false ↔ i ≠ .ecbdec ∧ ∀ dc rh, i ≠ .unpack dc rh := by
  rw [← Bool.not_eq_true, usesKey_iff]
  push Not
  rfl

/-- The own function of a command that does not use the key is one of the operand alone. -/
theorem ownOutcome_keyless {i : Instr} (h : usesKey i = false) (B K K' : Bytes) :
    ownOutcome i B K = ownOutcome i B K' := by
  cases i with
  | unpack dc rh => cases h
  | ecbdec => cases h
  | reverse | parse | verify | crc16 | strip => rfl

/-- R134: the length check comes first. -/
theorem outcome_longOperand (i : Instr) {s : State} (hn : s.nBuf < s.inLen.toNat) :
    outcome i s = .err .config .lengthRange res0 := by
  rw [outcome_eq_checked, checked, if_pos hn]

/-- R135: the key check comes next. -/
theorem outcome_missingKey {i : Instr} {s : State} (hi : usesKey i = true)
    (hn : s.inLen.toNat ≤ s.nBuf) (hk : keyValid s = false) :
    outcome i s = .err .config .keyNotLoaded res0 := by
  rw [outcome_eq_checked, checked, if_neg (Nat.not_lt.2 hn), if_pos (by simp [hi, hk])]

/-! ## What the own functions answer -/

/-- The outcome has an output of exactly n bytes, or it is an error without a sub-cause: the sub-causes are
those of the common checks and of an illegal word (R261). -/
def CmdOutcome.Own (n : Nat) : CmdOutcome → Prop
  | .ok out _ => out.length = n
  | .err _ sub _ => sub = .none

/-- The length of the command's output on an operand of n bytes (R138). -/
def outputLength (i : Instr) (n : Nat) : Nat :=
  match i with
  | .reverse | .ecbdec => n
  | .unpack _ rh => if rh then n - Config.prefixBytes - Config.hdrBytes else n - Config.prefixBytes
  | .strip => n - Config.hdrBytes
  | .parse | .verify | .crc16 => 0

theorem outputLength_le (i : Instr) (n : Nat) : outputLength i n ≤ n := by
  cases i with
  | unpack dc rh =>
    simp only [outputLength]
    split <;> omega
  | reverse | ecbdec => exact Nat.le_refl n
  | strip => exact Nat.sub_le _ _
  | parse | verify | crc16 => exact Nat.zero_le n

theorem length_strip (P : Bytes) : (strip P).length = P.length - Config.hdrBytes := List.length_drop

theorem length_emitted (rh : Bool) (P : Bytes) :
    (emitted rh P).length = if rh then P.length - Config.hdrBytes else P.length := by
  cases rh
  · rfl
  · exact length_strip P

theorem verifyFrame_own (r : Results) (f : Frame) (P out : Bytes) :
    (verifyFrame r f P out).Own out.length := by
  unfold verifyFrame
  simp only
  split <;> rfl

theorem unpackPlain_own (dc rh : Bool) (r : Results) (P : Bytes) :
    (unpackPlain dc rh r P).Own (emitted rh P).length := by
  unfold unpackPlain
  split
  · rfl
  · split
    · rfl
    · exact verifyFrame_own _ _ _ _

/-- UNPACK decrypts what follows the prefix, and decryption keeps the length (R237, R238). -/
theorem unpackExec_own (dc rh : Bool) (B K : Bytes) :
    (unpackExec dc rh B K).Own (outputLength (.unpack dc rh) B.length) := by
  unfold unpackExec
  split
  · rfl
  · simp only
    split
    · rfl
    · split
      · rfl
      · rename_i h
        obtain ⟨-, hC⟩ := (Aes.misaligned_eq_false_iff _).1 (Bool.eq_false_iff.2 h)
        have hlen : (emitted rh (decrypt K (B.drop Config.prefixBytes))).length =
            outputLength (.unpack dc rh) B.length := by
          rw [length_emitted, length_decrypt K hC, List.length_drop, outputLength]
        exact hlen ▸ unpackPlain_own dc rh _ _

theorem ownOutcome_own (i : Instr) (B K : Bytes) :
    (ownOutcome i B K).Own (outputLength i B.length) := by
  cases i with
  | unpack dc rh => exact unpackExec_own dc rh B K
  | reverse => exact List.length_reverse
  | ecbdec =>
    simp only [ownOutcome, ecbdecExec]
    split
    · rfl
    · rename_i h
      obtain ⟨-, hB⟩ := (Aes.misaligned_eq_false_iff B).1 (Bool.eq_false_iff.2 h)
      exact Aes.length_ecbDec K hB
  | parse =>
    simp only [ownOutcome, parseExec]
    split <;> rfl
  | verify =>
    simp only [ownOutcome, verifyExec]
    split
    · rfl
    · exact verifyFrame_own _ _ _ []
  | crc16 => rfl
  | strip =>
    simp only [ownOutcome, stripExec]
    split
    · rfl
    · exact length_strip B

/-- A command answers an output only past the common checks, and then one of its own length. -/
theorem outcome_ok {i : Instr} {s : State} {out : Bytes} {r : Results} (h : outcome i s = .ok out r) :
    s.inLen.toNat ≤ s.nBuf ∧ out.length = outputLength i s.inLen.toNat := by
  rw [outcome_eq_checked] at h
  rcases checked_cases (usesKey i) (ownOutcome i) s with ⟨-, hc⟩ | ⟨-, -, -, hc⟩ | ⟨hn, -, hc⟩ <;> rw [hc] at h
  · cases h
  · cases h
  · have hown := ownOutcome_own i (operand s) (keyBytes s)
    rw [h, length_operand] at hown
    exact ⟨hn, hown⟩

/-! ## What a completion makes of an outcome -/

/-- The sub-cause that the completion records: none with success (R140). -/
def CmdOutcome.sub : CmdOutcome → CfgSub
  | .ok _ _ => .none
  | .err _ sub _ => sub

theorem CmdOutcome.Own.sub_eq_none {n : Nat} {o : CmdOutcome} (h : o.Own n) : o.sub = .none := by
  cases o with
  | ok out r => rfl
  | err kind sub r => exact h

theorem complete_cfgsub (o : CmdOutcome) (s : State) : (complete o s).cfgsub = o.sub.code := by
  cases o <;> rfl

theorem complete_irq (o : CmdOutcome) (s : State) : irq (complete o s) = s.ie := by
  cases o <;> simp [irq, complete]

theorem raiseError_failed (k : ErrorKind) (c : CfgSub) (r : Results) (s : State) :
    Failed k.code c.code (raiseError k c r s) :=
  ⟨rfl, rfl, rfl, rfl, rfl, rfl, noOutput_raiseError k c r s⟩

/-- A command whose outcome is an error fails with its codes and touches nothing else. -/
theorem exec_err {i : Instr} {s : State} {k : ErrorKind} {c : CfgSub} {r : Results}
    (h : outcome i s = .err k c r) :
    ∃ t, exec i s = .next t ∧ Failed k.code c.code t ∧ t.res = r ∧ CommandFrame s t :=
  ⟨_, exec_eq_complete i s, h ▸ raiseError_failed k c r s, h ▸ rfl, complete_frame _ s⟩

/-- What software sees of a completion is made by the outcome alone, not by the state before it. -/
theorem complete_results_eq (o : CmdOutcome) (s s' : State) :
    (complete o s).outLen = (complete o s').outLen ∧
      (∀ k, obufRead (complete o s) k = obufRead (complete o s') k) ∧
      (complete o s).res = (complete o s').res ∧ (complete o s).done = (complete o s').done ∧
      (complete o s).err = (complete o s').err ∧ (complete o s).errcode = (complete o s').errcode ∧
      (complete o s).cfgsub = (complete o s').cfgsub := by
  cases o with
  | ok out r =>
    refine ⟨rfl, fun k => ?_, rfl, rfl, rfl, rfl, rfl⟩
    simp only [complete, obufRead_completeOk_mod]
  | err k c r =>
    obtain ⟨-, hs⟩ := noOutput_raiseError k c r s
    obtain ⟨-, hs'⟩ := noOutput_raiseError k c r s'
    exact ⟨rfl, fun k => (hs k).trans (hs' k).symm, rfl, rfl, rfl, rfl, rfl⟩

/-- OUT_LEN counts an output that fits OBUF: its 17 bits hold every legal N_BUF. -/
theorem complete_ok_outLen {n : Nat} (hn : nBufLegal n = true) {out : Bytes} (h : out.length ≤ n)
    (r : Results) (s : State) : (complete (.ok out r) s).outLen.toNat = out.length := by
  obtain ⟨-, -, hmax⟩ := (nBufLegal_iff n).1 hn
  rw [complete, completeOk_outLen, BitVec.toNat_ofNat, Nat.mod_eq_of_lt (by omega)]

end Sys2Proof.Machine
end

section
/-! The commands' common rules of 40_command_common.md: acceptance (R131), the checks and their order
(R133-R135), what an outcome depends on (R137), the size of the output (R138), what a completion leaves alone
(R139), and when BUSY changes (R142). -/

namespace Sys2Proof.Machine

/-! ## The step of a running command -/

/-- Settles O5: no event comes before the completion. -/
theorem stepRunsTheDecodedCommand : Obligations.StepRunsTheDecodedCommand := by
  intro s i hm hd _
  rw [step_engine hm, hd]

/-- Settles O7: an illegal word is one that the decoder rejects. -/
theorem illegalWordEndsInIllegalCmd : Obligations.IllegalWordEndsInIllegalCmd := by
  intro s hm hlegal
  obtain ⟨e, he⟩ := (illegal_iff_exists_error s.cmd).1 hlegal
  refine ⟨completeIllegal s, ?_, raiseError_failed .config .illegalCmd res0 s, rfl,
    complete_frame (.err .config .illegalCmd res0) s⟩
  rw [step_engine hm, he]

/-! ## The common checks -/

/-- Settles O8: the length check comes before all else, so nothing of the key enters. -/
theorem longOperandEndsInLengthRange : Obligations.LongOperandEndsInLengthRange :=
  fun i _ hn => exec_err (outcome_longOperand i hn)

/-- The sub-cause of a command that does not use the key: only the length check gives it one. -/
theorem outcome_keyless_sub {i : Instr} (h : usesKey i = false) (s : State) :
    (outcome i s).sub = .none ∨ (outcome i s).sub = .lengthRange := by
  rw [outcome_eq_checked]
  rcases checked_cases (usesKey i) (ownOutcome i) s with ⟨-, hc⟩ | ⟨-, hk, -⟩ | ⟨-, -, hc⟩
  · exact .inr (hc ▸ rfl)
  · simp [h] at hk
  · exact .inl (hc ▸ (ownOutcome_own i _ _).sub_eq_none)

/-- Settles O9: the key check is the one source of the sub-cause, and only its two commands make it. -/
theorem missingKeyEndsInKeyNotLoaded : Obligations.MissingKeyEndsInKeyNotLoaded := by
  refine ⟨fun i s hi hn hkw => ?_, fun i s t hi ht => ?_⟩
  · have hk : keyValid s = false := by rwa [← Bool.not_eq_true, keyValid_iff]
    exact exec_err (outcome_missingKey ((usesKey_iff i).2 hi) hn hk)
  · rw [exec_eq_complete] at ht
    cases ht
    rw [complete_cfgsub]
    rcases outcome_keyless_sub ((usesKey_eq_false_iff i).2 hi) s with h | h <;> rw [h] <;> decide

/-! ## The completion -/

/-- Settles O10: every command's step is the commit of an outcome. -/
theorem completionOwnsOnlyItsResults : Obligations.CompletionOwnsOnlyItsResults := by
  intro i s
  obtain ⟨hbusy, hseq, hends⟩ := complete_ends (outcome i s) s
  exact ⟨_, exec_eq_complete i s, complete_frame _ s, hbusy, hseq, hends, complete_irq _ s⟩

theorem operand_congr {s s' : State} (hlen : s.inLen = s'.inLen)
    (h : ∀ k, k < s.inLen.toNat → ibufByte s k = ibufByte s' k) : operand s = operand s' := by
  unfold operand
  rw [← hlen]
  exact List.map_congr_left fun k hk => h k (List.mem_range.1 hk)

/-- Settles O11: the common checks and the command's own function agree on the two states. -/
theorem outcomeIsAFunctionOfTheOperands : Obligations.OutcomeIsAFunctionOfTheOperands := by
  intro i s s' hnBuf hlen hkey hbytes
  have hoperand := operand_congr hlen hbytes
  have houtcome : outcome i s = outcome i s' := by
    rw [outcome_eq_checked, outcome_eq_checked, checked, checked, hnBuf, hlen, hoperand]
    cases huse : usesKey i with
    | true =>
      obtain ⟨hK, hvalid⟩ := hkey ((usesKey_iff i).1 huse)
      rw [hK, hvalid]
    | false =>
      rw [ownOutcome_keyless huse _ (keyBytes s) (keyBytes s')]
      simp only [Bool.false_and]
  exact ⟨_, _, exec_eq_complete i s, houtcome ▸ exec_eq_complete i s', complete_results_eq _ s s'⟩

/-- Settles O12: an output has the length of its command, and the common checks have bounded the operand. -/
theorem outputFitsOBUF : Obligations.OutputFitsOBUF := by
  intro i s t hlegal ht
  rw [exec_eq_complete] at ht
  cases ht
  cases ho : outcome i s with
  | ok out r =>
    obtain ⟨hn, hout⟩ := outcome_ok ho
    have hle := outputLength_le i s.inLen.toNat
    have hlen := complete_ok_outLen hlegal (hout.trans_le (hle.trans hn)) r s
    rw [hlen, hout]
    exact ⟨hle, hle.trans hn, fun _ => ⟨hn, by cases i <;> rfl⟩⟩
  | err k c r => exact ⟨Nat.zero_le _, Nat.zero_le _, nofun⟩

/-! ## Acceptance and the BUSY bit -/

/-- The first state of the sequencer, by the OP field of the accepted word (R131). -/
theorem acceptedSeq_eq (v : Word) :
    acceptedSeq v = if v.toNat % 256 = 1 ∧ legal v = true then .readHeader else .primitive :=
  if_congr (and_congr_left' (opField_eq_iff v 1)) rfl rfl

/-- Settles O6: a write of CMD is the acceptance, or BUSY drops it. -/
theorem acceptanceStartsTheCommand : Obligations.AcceptanceStartsTheCommand := by
  refine ⟨fun s v rest hr hb hm => ?_, fun s v rest hr hb hm => ?_⟩
  · have hstep := step_wr_whenIdle (accept v) rfl hr hm
    rw [hb] at hstep
    exact ⟨_, hstep, rfl, rfl, rfl, rfl, rfl, rfl, rfl, acceptedSeq_eq v, rfl, rfl, rfl, rfl, rfl, rfl,
      hr, rfl, rfl, fun _ => rfl⟩
  · rw [step_wr_whenIdle (accept v) rfl hr hm, if_pos hb]

/-- A legal write to an idle block starts a command only as the acceptance of a word. -/
theorem writeTarget_starts {n : Width} {tgt : Target} {v : Word} {s : State} (hb : s.busy = false)
    (h : (writeTarget n tgt v s).busy = true) :
    tgt = .reg .cmd ∧ (writeTarget n tgt v s).cmd = v := by
  rcases writeTarget_cases n tgt v s with ⟨-, hw⟩ | ⟨htgt, -, hw⟩ | ⟨i, -, -, hw⟩ | ⟨_, _, _, _, _, _, _, _, hw⟩
  · simp [hw, writeStatus_eq, hb] at h
  · exact ⟨htgt, by rw [hw, accept_cmd]⟩
  · simp [hw, hb] at h
  · simp [hw, hb] at h

theorem transact_starts {tx : Txn} {s t : State} (hb : s.busy = false) (h : transact tx s = .next t)
    (ht : t.busy = true) :
    ∃ addr n v, tx = .write addr n v ∧ resolve s n addr = some (.reg .cmd) ∧ t.cmd = v := by
  rcases transact_cases tx s with ⟨-, -, he⟩ | ⟨-, -, he⟩ | ⟨-, he⟩ <;> rw [he] at h <;> cases h
  · rcases portAccess_cases tx s with hp | ⟨addr, n, tgt, -, -, hp⟩ | ⟨addr, n, v, tgt, htx, htgt, hp⟩ <;>
      simp only [hp] at ht ⊢
    · simp [hb] at ht
    · simp [readTarget_settled n (.inl hb), hb] at ht
    · obtain ⟨rfl, hcmd⟩ := writeTarget_starts hb ht
      exact ⟨addr, n, v, htx, htgt, hcmd⟩
  · simp [hb] at ht

/-- An event makes an idle block BUSY only as an accepted write of CMD. -/
theorem envStep_starts {e : EnvEvent} {s t : State} (hb : s.busy = false) (h : envStep e s = .next t)
    (ht : t.busy = true) :
    ∃ addr n v, e = .access (.write addr n v) ∧ resolve s n addr = some (.reg .cmd) ∧ t.cmd = v := by
  rcases envStep_next h with ⟨-, rfl⟩ | ⟨-, rfl⟩ | ⟨tx, rfl, hx⟩ | ⟨r, s', env, -, hx, rfl⟩
  · simp at ht
  · simp [hb] at ht
  · obtain ⟨addr, n, v, rfl, hcmd, hv⟩ := transact_starts hb hx ht
    exact ⟨addr, n, v, rfl, hcmd, hv⟩
  · obtain ⟨_, _, _, htx, -⟩ := transact_starts hb hx ht
    cases htx

/-- An event makes a BUSY block idle only as the fall of `rst_n`. -/
theorem envStep_ends {e : EnvEvent} {s t : State} (hb : s.busy = true) (h : envStep e s = .next t)
    (ht : t.busy = false) : e = .rstLow ∧ t.rstN = false := by
  rcases envStep_next h with ⟨rfl, rfl⟩ | ⟨-, rfl⟩ | ⟨tx, -, hx⟩ | ⟨r, s', env, -, hx, rfl⟩
  · exact ⟨rfl, rfl⟩
  · simp [hb] at ht
  · simp [(transact_busy hb hx).1] at ht
  · simp [(transact_busy hb hx).1] at ht

/-- Settles O56: only events start a command, and it ends by its completion or by an event. -/
theorem busyRisesByAcceptanceAndFallsByCompletion :
    Obligations.BusyRisesByAcceptanceAndFallsByCompletion := by
  refine ⟨fun s t hb hs ht => ?_, fun s t hb hs ht => ?_⟩
  · rcases step_next hs with ⟨⟨-, hbusy, -⟩, -⟩ | ⟨e, rest, ⟨henv, -⟩, he⟩ | ⟨-, -, rfl⟩
    · simp [hb] at hbusy
    · obtain ⟨addr, n, v, rfl, hcmd, hv⟩ := envStep_starts (s := takeEvent rest s) hb he ht
      exact ⟨addr, n, v, rest, henv, hcmd, hv⟩
    · simp [hb] at ht
  · rcases step_next hs with ⟨hm, o, rfl, -⟩ | ⟨e, rest, ⟨henv, -⟩, he⟩ | ⟨-, -, rfl⟩
    · obtain ⟨-, -, hends⟩ := complete_ends o s
      exact .inl ⟨hm, hends⟩
    · obtain ⟨rfl, hrst⟩ := envStep_ends (s := takeEvent rest s) hb he ht
      exact .inr ⟨rest, henv, hrst⟩
    · simp [hb] at ht

end Sys2Proof.Machine
end

section
/-! SUPPORT. A command that succeeds: its completion shows the output of its outcome, byte for byte (R140). -/

namespace Sys2Proof.Machine

/-- Past the length check, a command that does not use the key answers its own outcome (R132, R135). -/
theorem outcome_keyless {i : Instr} (hi : usesKey i = false) {s : State} (hn : s.inLen.toNat ≤ s.nBuf) :
    outcome i s = ownOutcome i (operand s) (keyBytes s) := by
  rw [outcome_eq_checked]
  exact checked_body _ hn fun hk => by simp [hi] at hk

theorem completeOk_succeeded (out : Bytes) (r : Results) (s : State) : Succeeded (completeOk out r s) :=
  ⟨rfl, rfl, rfl, rfl, rfl, rfl⟩

/-- OUT_LEN and OBUF show an output whole: one that fits a legal N_BUF fits OUT_LEN's 17 bits (R8). -/
theorem complete_ok_outputIs {n : Nat} (hn : nBufLegal n = true) {out : Bytes} (h : out.length ≤ n)
    (r : Results) (s : State) : OutputIs out (complete (.ok out r) s) := by
  obtain ⟨-, -, hmax⟩ := (nBufLegal_iff n).1 hn
  exact ⟨complete_ok_outLen hn h r s, obufRead_completeOk out r s (by omega)⟩

/-- A command whose outcome is an output succeeds, shows exactly that output, and touches nothing else. -/
theorem exec_ok {i : Instr} {s : State} (hlegal : nBufLegal s.nBuf = true) {out : Bytes} {r : Results}
    (h : outcome i s = .ok out r) :
    ∃ t, exec i s = .next t ∧ Succeeded t ∧ OutputIs out t ∧ t.res = r ∧ CommandFrame s t := by
  have hfits : out.length ≤ s.nBuf := by simpa only [h, CmdOutcome.Fits] using outcome_fits i s
  exact ⟨_, exec_eq_complete i s, h ▸ completeOk_succeeded out r s,
    h ▸ complete_ok_outputIs hlegal hfits r s, h ▸ rfl, complete_frame _ s⟩

end Sys2Proof.Machine
end

section
/-! The byte reverser and the command REVERSE (41_byte_reverser.md R160, R162). -/

namespace Sys2Proof.Machine

@[simp] theorem length_rev (B : Bytes) : (rev B).length = B.length := List.length_reverse

/-- R160 on an operand: byte i of its reversal is the i-th byte of IBUF[0..IN_LEN) from the end. -/
theorem rev_operand_getD_of_lt {s : State} {i : Nat} (hi : i < s.inLen.toNat) :
    (rev (operand s)).getD i 0 = ibufByte s (s.inLen.toNat - 1 - i) := by
  rw [rev, List.getD_eq_getElem?_getD, List.getElem?_reverse (by rwa [length_operand]),
    length_operand, operand_getElem?, if_pos (by omega), Option.getD_some]

theorem rev_operand_getD_of_le {s : State} {i : Nat} (hi : s.inLen.toNat ≤ i) :
    (rev (operand s)).getD i 0 = 0 :=
  List.getD_eq_default _ _ (by rwa [length_rev, length_operand])

/-- R162: past the length check REVERSE answers the reversed operand, with no look at the key. -/
theorem outcome_reverse {s : State} (hn : s.inLen.toNat ≤ s.nBuf) :
    outcome .reverse s = .ok (rev (operand s)) res0 :=
  outcome_keyless rfl hn

/-- Settles O14: the length check decides between the reversed operand, read off byte by byte, and the
common error. -/
theorem reverseOutputsTheReversedOperand : Obligations.ReverseOutputsTheReversedOperand := by
  intro s hlegal
  by_cases hn : s.inLen.toNat ≤ s.nBuf
  · obtain ⟨t, ht, hsucceeded, ⟨hlen, hbytes⟩, hres, hframe⟩ := exec_ok hlegal (outcome_reverse hn)
    refine ⟨t, ht, hframe, hres, ?_⟩
    rw [if_pos hn]
    refine ⟨hsucceeded, ?_, fun i hi => ?_, fun i hi => ?_⟩
    · rw [hlen, length_rev, length_operand]
    · rw [hbytes, rev_operand_getD_of_lt hi]
    · rw [hbytes, rev_operand_getD_of_le hi]
  · obtain ⟨t, ht, hfailed, hres, hframe⟩ := exec_err (outcome_longOperand .reverse (Nat.lt_of_not_le hn))
    refine ⟨t, ht, hframe, hres, ?_⟩
    rw [if_neg hn]
    exact hfailed

end Sys2Proof.Machine
end

section
/-! SUPPORT. The field of AES (42_ecb_codec.md R171): the laws of the product, and the 254th power as the
inverse. -/

namespace Sys2Proof.Machine.Aes

/-! ## The product

Multiplication by a fixed second factor is a sum of iterates of `xtime`, so any two such multiplications
commute. Applied to the first factor 1, this gives the laws of the product itself. -/

theorem xtime_zero : xtime 0 = 0 := by decide

theorem gmulBits_xtime (n : Nat) (a b : Byte) : gmulBits n (xtime a) b = xtime (gmulBits n a b) := by
  induction n generalizing a b with
  | zero => exact xtime_zero.symm
  | succ n ih =>
    simp only [gmulBits, xtime_xor, ih]
    split
    · rfl
    · rw [xtime_zero]

theorem gmul_xtime (a k : Byte) : gmul (xtime a) k = xtime (gmul a k) := gmulBits_xtime 8 a k

theorem zero_gmul (k : Byte) : gmul 0 k = 0 := by
  simpa using gmul_xor 0 0 k

theorem gmulBits_gmul (n : Nat) (a b k : Byte) : gmulBits n (gmul a k) b = gmul (gmulBits n a b) k := by
  induction n generalizing a b with
  | zero => exact (zero_gmul k).symm
  | succ n ih =>
    simp only [gmulBits, gmul_xor, ← ih, ← gmul_xtime]
    split
    · rfl
    · rw [zero_gmul]

theorem gmul_right_comm (a j k : Byte) : gmul (gmul a j) k = gmul (gmul a k) j := gmulBits_gmul 8 a k j

/-- The bits of a byte are its coefficients of the powers of x. -/
theorem one_gmul : ∀ a : Byte, gmul 1 a = a := by decide +kernel

theorem gmul_comm (a b : Byte) : gmul a b = gmul b a := by
  calc gmul a b = gmul (gmul 1 a) b := by rw [one_gmul]
    _ = gmul (gmul 1 b) a := gmul_right_comm 1 a b
    _ = gmul b a := by rw [one_gmul]

theorem gmul_assoc (a j k : Byte) : gmul (gmul a j) k = gmul a (gmul j k) := by
  rw [gmul_comm a j, gmul_right_comm, gmul_comm]

theorem gmul_gmul_gmul_comm (a b c d : Byte) :
    gmul (gmul a b) (gmul c d) = gmul (gmul a c) (gmul b d) := by
  rw [← gmul_assoc, gmul_right_comm a b c, gmul_assoc]

theorem gmul_xor_right (a j k : Byte) : gmul a (j ^^^ k) = gmul a j ^^^ gmul a k := by
  rw [gmul_comm, gmul_xor, gmul_comm j, gmul_comm k]

@[simp] theorem gmul_one (a : Byte) : gmul a 1#8 = a := (gmul_comm a 1).trans (one_gmul a)

@[simp] theorem gmul_zero (a : Byte) : gmul a 0#8 = 0#8 := (gmul_comm a 0).trans (zero_gmul a)

theorem gmul_left_cancel {x q a b : Byte} (hq : gmul x q = 1) (h : gmul x a = gmul x b) : a = b := by
  have hqx : gmul q x = 1 := by rw [gmul_comm, hq]
  calc a = gmul q (gmul x a) := by rw [← gmul_assoc, hqx, one_gmul]
    _ = gmul q (gmul x b) := by rw [h]
    _ = b := by rw [← gmul_assoc, hqx, one_gmul]

/-! ## Squaring

Squaring respects sums and products. Eight squarings fix the byte 2, that is the polynomial x, and hence
every byte: a^256 = a. -/

/-- `a` squared n times, a^(2^n). -/
def squares : Nat → Byte → Byte
  | 0, a => a
  | n + 1, a => squares n (gmul a a)

theorem gmul_self_xor (a b : Byte) : gmul (a ^^^ b) (a ^^^ b) = gmul a a ^^^ gmul b b := by
  calc gmul (a ^^^ b) (a ^^^ b) = gmul a a ^^^ gmul a b ^^^ (gmul a b ^^^ gmul b b) := by
        rw [gmul_xor, gmul_xor_right, gmul_xor_right, gmul_comm b a]
    _ = gmul a a ^^^ (gmul a b ^^^ gmul a b) ^^^ gmul b b := by ac_rfl
    _ = gmul a a ^^^ gmul b b := by rw [BitVec.xor_self, BitVec.xor_zero]

theorem squares_xor (n : Nat) (a b : Byte) : squares n (a ^^^ b) = squares n a ^^^ squares n b := by
  induction n generalizing a b with
  | zero => rfl
  | succ n ih => simp only [squares, gmul_self_xor, ih]

theorem squares_gmul (n : Nat) (a b : Byte) : squares n (gmul a b) = gmul (squares n a) (squares n b) := by
  induction n generalizing a b with
  | zero => rfl
  | succ n ih => simp only [squares, gmul_gmul_gmul_comm a b, ih]

theorem squares_zero (n : Nat) : squares n 0 = 0 := by
  simpa using squares_xor n 0 0

theorem squares_one (n : Nat) : squares n 1 = 1 := by
  induction n with
  | zero => rfl
  | succ n ih => exact (congrArg (squares n) (gmul_one 1)).trans ih

theorem xtime_eq_gmul_two (a : Byte) : xtime a = gmul 2 a := by
  calc xtime a = xtime (gmul 1 a) := by rw [one_gmul]
    _ = gmul (xtime 1) a := (gmul_xtime 1 a).symm
    _ = gmul 2 a := by rw [show xtime 1 = 2 by decide]

theorem squares_xtime (a : Byte) : squares 8 (xtime a) = xtime (squares 8 a) := by
  have h2 : squares 8 2 = 2 := by decide +kernel
  rw [xtime_eq_gmul_two, squares_gmul, h2, ← xtime_eq_gmul_two]

theorem squares_gmulBits (n : Nat) (a b : Byte) :
    squares 8 (gmulBits n a b) = gmulBits n (squares 8 a) b := by
  induction n generalizing a b with
  | zero => exact squares_zero 8
  | succ n ih =>
    simp only [gmulBits, squares_xor, ih, squares_xtime]
    split
    · rfl
    · rw [squares_zero]

theorem squares_eight (a : Byte) : squares 8 a = a := by
  calc squares 8 a = squares 8 (gmul 1 a) := by rw [one_gmul]
    _ = gmul (squares 8 1) a := squares_gmulBits 8 1 a
    _ = a := by rw [squares_one, one_gmul]

/-- a * a * (a^2 * a^4 * ... * a^(2^n)) = a^(2^(n+1)). -/
theorem gmul_gmul_squaresProduct (n : Nat) (a : Byte) :
    gmul a (gmul a (squaresProduct n a)) = squares (n + 1) a := by
  induction n generalizing a with
  | zero => exact congrArg (gmul a) (gmul_one a)
  | succ n ih =>
    rw [squaresProduct, ← gmul_assoc, ih]
    rfl

theorem gmul_gmul_inv (a : Byte) : gmul a (gmul a (inv a)) = a :=
  (gmul_gmul_squaresProduct 7 a).trans (squares_eight a)

end Sys2Proof.Machine.Aes
end

section
/-! The tables of the S-box (42_ecb_codec.md R172). -/

namespace Sys2Proof.Machine.Aes

/-- The inverse of the affine map A of R172, with rotations for its sums of bits. -/
def invAffine (b : Byte) : Byte := b.rotateLeft 1 ^^^ b.rotateLeft 3 ^^^ b.rotateLeft 6 ^^^ 0x05

theorem affine_invAffine : ∀ b : Byte, affine (invAffine b) = b := by decide +kernel

/-- The printed entry at x, with the affine map undone, is an inverse of x. -/
theorem gmul_invAffine_sbox : ∀ {x : Byte}, x ≠ 0 → gmul x (invAffine (sbox x)) = 1 := by decide +kernel

theorem gmul_inv {x : Byte} (hx : x ≠ 0) : gmul x (inv x) = 1 :=
  gmul_left_cancel (gmul_invAffine_sbox hx) ((gmul_gmul_inv x).trans (gmul_one x).symm)

theorem inv_zero : inv 0 = 0 := by
  rw [inv, squaresProduct, zero_gmul, zero_gmul]

theorem sbox_eq_affine_inv (x : Byte) : sbox x = affine (inv x) := by
  by_cases hx : x = 0
  · subst hx
    rw [inv_zero]
    decide
  · have hinv : inv x = invAffine (sbox x) :=
      gmul_left_cancel (gmul_inv hx) ((gmul_inv hx).trans (gmul_invAffine_sbox hx).symm)
    rw [hinv, affine_invAffine]

theorem invSbox_sbox : ∀ x : Byte, invSbox (sbox x) = x := by decide +kernel

theorem sbox_invSbox : ∀ x : Byte, sbox (invSbox x) = x := by decide +kernel

/-- Settles O28: the printed entry is the affine map of the one inverse that a byte can have. -/
theorem sboxIsTheAffineMapOfTheInverse : Obligations.SboxIsTheAffineMapOfTheInverse := fun x =>
  ⟨gmul_inv, inv_zero, sbox_eq_affine_inv x, invSbox_sbox x⟩

end Sys2Proof.Machine.Aes
end

section
/-! SUPPORT. A window of a list, its n items from index k on, and the windows of an operand and of an
output. -/

namespace Sys2Proof.Machine

/-- A window of a list, item by item. -/
theorem map_range_getD {α : Type} (l : List α) (d : α) {k n : Nat} (h : k + n ≤ l.length) :
    (List.range n).map (fun j => l.getD (k + j) d) = (l.drop k).take n := by
  refine List.ext_getElem (by simp; omega) fun j hj _ => ?_
  have hj : k + j < l.length := by simp at hj; omega
  simp [List.getElem?_eq_getElem hj]

/-- The operand bytes from index k on, as the host wrote them (R108). -/
theorem map_range_ibufByte {s : State} {k n : Nat} (h : k + n ≤ s.inLen.toNat) :
    (List.range n).map (fun j => ibufByte s (k + j)) = ((operand s).drop k).take n := by
  rw [← map_range_getD (operand s) 0 (by rwa [length_operand])]
  refine List.map_congr_left fun j hj => ?_
  have hj : j < n := List.mem_range.1 hj
  rw [List.getD_eq_getElem?_getD, operand_getElem?, if_pos (by omega), Option.getD_some]

/-- The output bytes from index k on, as the host reads them (R77). -/
theorem OutputIs.map_range_obufRead {out : Bytes} {t : State} (ht : OutputIs out t) {k n : Nat}
    (h : k + n ≤ out.length) :
    (List.range n).map (fun j => obufRead t (k + j)) = (out.drop k).take n := by
  obtain ⟨-, hbytes⟩ := ht
  simp only [hbytes]
  exact map_range_getD out 0 h

end Sys2Proof.Machine
end

section
/-! The key schedule (42_ecb_codec.md R175). -/

namespace Sys2Proof.Machine.Aes

theorem keyWord_eq_window {K : Bytes} {i : Nat} (h : 4 * i + 4 ≤ K.length) :
    keyWord K i = (K.drop (4 * i)).take 4 := map_range_getD K 0 h

theorem roundKey_eq_flatten {w : List Bytes} {r : Nat} (h : 4 * r + 4 ≤ w.length) :
    roundKey w r = ((w.drop (4 * r)).take 4).flatten := by
  rw [← map_range_getD w [] h]
  simp [roundKey, List.range_succ]

theorem prefix_expandWords (n : Nat) (w : List Bytes) : w <+: expandWords n w := by
  induction n generalizing w with
  | zero => exact List.prefix_rfl
  | succ n ih => exact (List.prefix_append w _).trans (ih _)

/-- A word that the expansion appends is the next word after all the words before it. -/
theorem expandWords_getD_eq_nextWord {n i : Nat} {w : List Bytes} (hw : w.length ≤ i)
    (hi : i < w.length + n) :
    (expandWords n w).getD i [] = nextWord ((expandWords n w).take i) := by
  induction n generalizing w with
  | zero => omega
  | succ n ih =>
    rcases Nat.eq_or_lt_of_le hw with rfl | hlt
    · rw [← List.prefix_iff_eq_take.1 (prefix_expandWords (n + 1) w), expandWords,
        expandWords_getD (by simp)]
      simp
    · exact ih (w := w ++ [nextWord w]) (by simpa using hlt) (by simp; omega)

/-- R175's recurrence, on the words before word i. -/
theorem nextWord_take {w : List Bytes} {i : Nat} (h4 : 4 ≤ i) (hi : i ≤ w.length) :
    nextWord (w.take i) =
      xorBytes (w.getD (i - 4) [])
        (if i % 4 = 0 then xorBytes (subWord (rotWord (w.getD (i - 1) []))) (rcon (i / 4))
         else w.getD (i - 1) []) := by
  simp only [nextWord, List.length_take, Nat.min_eq_left hi, List.getD_eq_getElem?_getD]
  rw [List.getElem?_take_of_lt (by omega), List.getElem?_take_of_lt (by omega)]

@[simp] theorem length_keyExpansion (K : Bytes) : (keyExpansion K).length = 44 :=
  length_expandWords 40 _

theorem keyExpansion_getD_of_lt (K : Bytes) {i : Nat} (hi : i < 4) :
    (keyExpansion K).getD i [] = keyWord K i := by
  rw [keyExpansion, expandWords_getD hi]
  match i with
  | 0 | 1 | 2 | 3 => rfl

/-- Settles O29: the first words are windows of the key, each later word is the next word after those before
it, and a round key is a window of the schedule. -/
theorem keyScheduleFollowsTheRecurrence : Obligations.KeyScheduleFollowsTheRecurrence := by
  intro K hK
  refine ⟨length_keyExpansion K, fun i hi => length_keyExpansion_word K hi, fun i hi => ?_,
    fun i h4 hi => ?_, fun r hr => ?_⟩
  · rw [keyExpansion_getD_of_lt K hi, keyWord_eq_window (by omega)]
  · have hnext : (keyExpansion K).getD i [] = nextWord ((keyExpansion K).take i) :=
      expandWords_getD_eq_nextWord h4 hi
    rw [hnext, nextWord_take h4 (by rw [length_keyExpansion]; omega)]
  · exact roundKey_eq_flatten (by rw [length_keyExpansion]; omega)

end Sys2Proof.Machine.Aes
end

section
/-! The inverse cipher and the forward cipher undo each other (42_ecb_codec.md R176-R179). -/

namespace Sys2Proof.Machine.Aes

/-! ## The layers of a round, one by one -/

theorem addRoundKey_addRoundKey {s rk : Block} (h : s.length = rk.length) :
    addRoundKey (addRoundKey s rk) rk = s := xorBytes_self_cancel h

theorem invSubBytes_subBytes (s : Block) : invSubBytes (subBytes s) = s := by
  rw [invSubBytes, subBytes, List.map_map]
  exact List.map_id'' invSbox_sbox s

theorem subBytes_invSubBytes (s : Block) : subBytes (invSubBytes s) = s := by
  rw [invSubBytes, subBytes, List.map_map]
  exact List.map_id'' sbox_invSbox s

theorem invShiftRows_shiftRows {s : Block} (h : s.length = 16) : invShiftRows (shiftRows s) = s := by
  conv_rhs => rw [← ofCells_cell h]
  refine ofCells_congr fun r hr c hc => ?_
  rw [shiftRows, cell_ofCells _ hr (Nat.mod_lt _ (by decide)),
    show ((c + 4 - r) % 4 + r) % 4 = c by omega]

theorem shiftRows_invShiftRows {s : Block} (h : s.length = 16) : shiftRows (invShiftRows s) = s := by
  conv_rhs => rw [← ofCells_cell h]
  refine ofCells_congr fun r hr c hc => ?_
  rw [invShiftRows, cell_ofCells _ hr (Nat.mod_lt _ (by decide)),
    show ((c + r) % 4 + 4 - r) % 4 = c by omega]

/-! ## The column mixes as products by a matrix

Both mixes multiply each column by a circulant matrix, and the two matrices are inverse to each other. -/

/-- Each column of the state multiplied by the matrix M. -/
def mulColumns (M : Nat → Nat → Byte) (s : Block) : Block :=
  ofCells (fun r c => mixCell s c (M r 0) (M r 1) (M r 2) (M r 3))

/-- The entry of the product of two matrices. -/
def matMul (N M : Nat → Nat → Byte) (r i : Nat) : Byte :=
  gmul (M 0 i) (N r 0) ^^^ gmul (M 1 i) (N r 1) ^^^ gmul (M 2 i) (N r 2) ^^^ gmul (M 3 i) (N r 3)

/-- The matrix whose row r is the row k rotated right by r. -/
def circulant (k : Bytes) (r i : Nat) : Byte := k.getD ((i + 4 - r) % 4) 0

theorem mulColumns_mulColumns (N M : Nat → Nat → Byte) (s : Block) :
    mulColumns N (mulColumns M s) = mulColumns (matMul N M) s := by
  refine ofCells_congr fun r hr c hc => ?_
  have hcell : ∀ i < 4, cell (mulColumns M s) i c = mixCell s c (M i 0) (M i 1) (M i 2) (M i 3) :=
    fun i hi => cell_ofCells _ hi hc
  rw [mixCell, hcell 0 (by decide), hcell 1 (by decide), hcell 2 (by decide), hcell 3 (by decide)]
  simp only [mixCell, matMul, gmul_xor, gmul_xor_right, gmul_assoc]
  ac_rfl

theorem mulColumns_one {M : Nat → Nat → Byte} (hM : ∀ r < 4, ∀ i < 4, M r i = if r = i then 1 else 0)
    {s : Block} (h : s.length = 16) : mulColumns M s = s := by
  conv_rhs => rw [← ofCells_cell h]
  refine ofCells_congr fun r hr c hc => ?_
  rw [hM r hr 0 (by decide), hM r hr 1 (by decide), hM r hr 2 (by decide), hM r hr 3 (by decide)]
  match r with
  | 0 | 1 | 2 | 3 => simp [mixCell]

theorem mixColumns_eq (s : Block) : mixColumns s = mulColumns (circulant [0x02, 0x03, 0x01, 0x01]) s := by
  refine ofCells_congr fun r hr c hc => ?_
  match r with
  | 0 | 1 | 2 | 3 => rfl

theorem invMixColumns_eq (s : Block) :
    invMixColumns s = mulColumns (circulant [0x0e, 0x0b, 0x0d, 0x09]) s := by
  refine ofCells_congr fun r hr c hc => ?_
  match r with
  | 0 | 1 | 2 | 3 => rfl

theorem invMixColumns_mixColumns {s : Block} (h : s.length = 16) : invMixColumns (mixColumns s) = s := by
  rw [mixColumns_eq, invMixColumns_eq, mulColumns_mulColumns]
  exact mulColumns_one (by decide +kernel) h

theorem mixColumns_invMixColumns {s : Block} (h : s.length = 16) : mixColumns (invMixColumns s) = s := by
  rw [mixColumns_eq, invMixColumns_eq, mulColumns_mulColumns]
  exact mulColumns_one (by decide +kernel) h

/-! ## The rounds -/

theorem invSubBytes_invShiftRows_shiftRows_subBytes {s : Block} (h : s.length = 16) :
    invSubBytes (invShiftRows (shiftRows (subBytes s))) = s := by
  rw [invShiftRows_shiftRows (by simpa using h), invSubBytes_subBytes]

theorem shiftRows_subBytes_invSubBytes_invShiftRows {s : Block} (h : s.length = 16) :
    shiftRows (subBytes (invSubBytes (invShiftRows s))) = s := by
  rw [subBytes_invSubBytes, shiftRows_invShiftRows h]

section
variable {w : List Bytes} {n : Nat} (hw : ∀ r ≤ n, (roundKey w r).length = 16)
include hw

theorem length_encRounds {P : Block} (hP : P.length = 16) : (encRounds w P n).length = 16 := by
  cases n with
  | zero => simp [encRounds, hP, hw]
  | succ n => simp [encRounds, hw]

theorem decRounds_shiftRows_subBytes_encRounds {P : Block} (hP : P.length = 16) :
    decRounds w n (shiftRows (subBytes (encRounds w P n))) =
      shiftRows (subBytes (addRoundKey P (roundKey w 0))) := by
  induction n with
  | zero => rfl
  | succ n ih =>
    have hw' : ∀ r ≤ n, (roundKey w r).length = 16 := fun r hr => hw r (by omega)
    rw [decRounds, invSubBytes_invShiftRows_shiftRows_subBytes (length_encRounds hw hP), encRounds,
      addRoundKey_addRoundKey (by simp [hw]), invMixColumns_mixColumns (length_shiftRows _), ih hw']

theorem encRounds_addRoundKey_decRounds {S : Block} (hS : S.length = 16) :
    encRounds w (addRoundKey (invSubBytes (invShiftRows (decRounds w n S))) (roundKey w 0)) n =
      invSubBytes (invShiftRows S) := by
  induction n generalizing S with
  | zero => exact addRoundKey_addRoundKey (by simp [hw])
  | succ n ih =>
    have hw' : ∀ r ≤ n, (roundKey w r).length = 16 := fun r hr => hw r (by omega)
    rw [decRounds, encRounds, ih hw' (length_invMixColumns _),
      shiftRows_subBytes_invSubBytes_invShiftRows (length_invMixColumns _),
      mixColumns_invMixColumns (by simp [hw]), addRoundKey_addRoundKey (by simp [hw])]

end

theorem decBlock_encBlock {w : List Bytes} (hw : ∀ r ≤ 10, (roundKey w r).length = 16) {P : Block}
    (hP : P.length = 16) : decBlock w (encBlock w P) = P := by
  have hw9 : ∀ r ≤ 9, (roundKey w r).length = 16 := fun r hr => hw r (by omega)
  rw [decBlock, encBlock, addRoundKey_addRoundKey (by simp [hw]),
    decRounds_shiftRows_subBytes_encRounds hw9 hP,
    invSubBytes_invShiftRows_shiftRows_subBytes (by simp [hP, hw]),
    addRoundKey_addRoundKey (by simp [hP, hw])]

theorem encBlock_decBlock {w : List Bytes} (hw : ∀ r ≤ 10, (roundKey w r).length = 16) {C : Block}
    (hC : C.length = 16) : encBlock w (decBlock w C) = C := by
  have hw9 : ∀ r ≤ 9, (roundKey w r).length = 16 := fun r hr => hw r (by omega)
  have hS : (addRoundKey C (roundKey w 10)).length = 16 := by simp [hC, hw]
  rw [encBlock, decBlock, encRounds_addRoundKey_decRounds hw9 hS,
    shiftRows_subBytes_invSubBytes_invShiftRows hS, addRoundKey_addRoundKey (by simp [hC, hw])]

/-- Settles O30: for one expanded key, each cipher undoes the other. -/
theorem aesDecAndAesEncAreInverse : Obligations.AesDecAndAesEncAreInverse := by
  intro K X _ hX
  have hw : ∀ r ≤ 10, (roundKey (keyExpansion K) r).length = 16 := fun r hr => length_roundKey K hr
  exact ⟨decBlock_encBlock hw hX, encBlock_decBlock hw hX⟩

/-- Settles O31, by running the inverse cipher. -/
theorem aesDecGivesTheFipsVector : Obligations.AesDecGivesTheFipsVector := by
  unfold Obligations.AesDecGivesTheFipsVector
  decide +kernel

end Sys2Proof.Machine.Aes
end

section
/-! ECB mode and the command ECBDEC (42_ecb_codec.md R181, R183). -/

namespace Sys2Proof.Machine

/-- R181: block m of the output is block m of the input, decrypted by itself. -/
theorem Aes.ecbDecBlocks_window (K : Bytes) {n m : Nat} (hm : m < n) (B : Bytes) :
    ((Aes.ecbDecBlocks K n B).drop (16 * m)).take 16 = Aes.aesDec K ((B.drop (16 * m)).take 16) := by
  induction n generalizing m B with
  | zero => omega
  | succ n ih =>
    rw [Aes.ecbDecBlocks]
    cases m with
    | zero => exact List.take_left' (Aes.length_aesDec _ _)
    | succ m =>
      have hskip : 16 * (m + 1) = (Aes.aesDec K (B.take Config.blockBytes)).length + 16 * m := by
        rw [Aes.length_aesDec]
        omega
      rw [hskip, List.drop_length_add_append, ih (by omega), List.drop_drop, Aes.length_aesDec]

theorem Aes.ecbDec_window (K : Bytes) {B : Bytes} {m : Nat} (hm : m < B.length / 16) :
    ((Aes.ecbDec K B).drop (16 * m)).take 16 = Aes.aesDec K ((B.drop (16 * m)).take 16) :=
  Aes.ecbDecBlocks_window K hm B

/-- Past both common checks, every command answers its own outcome (R132). -/
theorem outcome_keyed (i : Instr) {s : State} (hn : s.inLen.toNat ≤ s.nBuf) (hk : s.kw = 0b1111) :
    outcome i s = ownOutcome i (operand s) (keyBytes s) := by
  rw [outcome_eq_checked]
  exact checked_body _ hn fun _ => (keyValid_iff s).2 hk

theorem misaligned_operand_iff (s : State) :
    Aes.misaligned (operand s) = true ↔ s.inLen.toNat = 0 ∨ s.inLen.toNat % 16 ≠ 0 := by
  simp [Aes.misaligned]

/-- R183, R180: the length check of the command itself. -/
theorem outcome_ecbdec_misaligned {s : State} (hn : s.inLen.toNat ≤ s.nBuf) (hk : s.kw = 0b1111)
    (hB : s.inLen.toNat = 0 ∨ s.inLen.toNat % 16 ≠ 0) :
    outcome .ecbdec s = .err .blockAlignment .none res0 := by
  rw [outcome_keyed .ecbdec hn hk, ownOutcome, ecbdecExec, if_pos ((misaligned_operand_iff s).2 hB)]

/-- R183: whole blocks are decrypted under the key as loaded. -/
theorem outcome_ecbdec_aligned {s : State} (hn : s.inLen.toNat ≤ s.nBuf) (hk : s.kw = 0b1111)
    (hB : ¬(s.inLen.toNat = 0 ∨ s.inLen.toNat % 16 ≠ 0)) :
    outcome .ecbdec s = .ok (Aes.ecbDec (keyBytes s) (operand s)) res0 := by
  rw [outcome_keyed .ecbdec hn hk, ownOutcome, ecbdecExec, if_neg (mt (misaligned_operand_iff s).1 hB)]

/-- Settles O19: the three checks in their order (R263), then the decrypted operand read off block by
block. -/
theorem ecbdecDecryptsEachBlock : Obligations.EcbdecDecryptsEachBlock := by
  intro s hlegal
  by_cases hn : s.nBuf < s.inLen.toNat
  · obtain ⟨t, ht, hfailed, hres, hframe⟩ := exec_err (outcome_longOperand .ecbdec hn)
    refine ⟨t, ht, hframe, hres, ?_⟩
    rw [if_pos hn]
    exact hfailed
  have hle : s.inLen.toNat ≤ s.nBuf := Nat.le_of_not_lt hn
  by_cases hk : s.kw ≠ 0b1111
  · have hkey : keyValid s = false := by rwa [← Bool.not_eq_true, keyValid_iff]
    obtain ⟨t, ht, hfailed, hres, hframe⟩ := exec_err (outcome_missingKey (i := .ecbdec) rfl hle hkey)
    refine ⟨t, ht, hframe, hres, ?_⟩
    rw [if_neg hn, if_pos hk]
    exact hfailed
  have hkw : s.kw = 0b1111 := not_not.1 hk
  by_cases hB : s.inLen.toNat = 0 ∨ s.inLen.toNat % 16 ≠ 0
  · obtain ⟨t, ht, hfailed, hres, hframe⟩ := exec_err (outcome_ecbdec_misaligned hle hkw hB)
    refine ⟨t, ht, hframe, hres, ?_⟩
    rw [if_neg hn, if_neg hk, if_pos hB]
    exact hfailed
  · obtain ⟨t, ht, hsucceeded, hout, hres, hframe⟩ := exec_ok hlegal (outcome_ecbdec_aligned hle hkw hB)
    have hlen : (Aes.ecbDec (keyBytes s) (operand s)).length = s.inLen.toNat := by
      rw [Aes.length_ecbDec _ (by rw [length_operand]; omega), length_operand]
    refine ⟨t, ht, hframe, hres, ?_⟩
    rw [if_neg hn, if_neg hk, if_neg hB]
    have ⟨houtLen, houtBytes⟩ := hout
    refine ⟨hsucceeded, houtLen.trans hlen, fun m hm => ?_, fun i hi => ?_⟩
    · rw [hout.map_range_obufRead (by omega), map_range_ibufByte (by omega),
        Aes.ecbDec_window _ (by rwa [length_operand])]
    · rw [houtBytes, List.getD_eq_default _ _ (by omega)]

end Sys2Proof.Machine
end

section
/-! SUPPORT. The frame parser on an operand (43_frame_parser.md R200, R201): when it answers a frame, what the
fields of that frame are, and what an outcome without output shows. -/

namespace Sys2Proof.Machine

/-! ## Little-endian fields -/

/-- R12: the 16 bits hold the two bytes, with no carry out. -/
theorem u16le_toNat (B : Bytes) (o : Nat) :
    (u16le B o).toNat = u16Nat (B.getD o 0) (B.getD (o + 1) 0) := by
  unfold u16le u16Nat
  have hlo := (B.getD o 0).isLt
  have hhi := (B.getD (o + 1) 0).isLt
  simp only [BitVec.toNat_add, BitVec.toNat_mul, BitVec.toNat_setWidth, BitVec.toNat_ofNat]
  omega

theorem operand_getD_of_lt {s : State} {i : Nat} (hi : i < s.inLen.toNat) :
    (operand s).getD i 0 = ibufByte s i := by
  rw [List.getD_eq_getElem?_getD, operand_getElem?, if_pos hi, Option.getD_some]

theorem u16le_operand_toNat {s : State} {o : Nat} (ho : o + 1 < s.inLen.toNat) :
    (u16le (operand s) o).toNat = u16Nat (ibufByte s o) (ibufByte s (o + 1)) := by
  rw [u16le_toNat, operand_getD_of_lt (by omega), operand_getD_of_lt ho]

/-! ## The parsed frame -/

theorem parseFrame_of_lt {P : Bytes} (h : P.length < 16) : parseFrame P = none := if_pos h

/-- The frame of a plaintext of at least 16 bytes (R201). -/
def frameOf (P : Bytes) : Frame :=
  { fwv := u16le P 0, dsz := u16le P 2, crc := u16le P 4, data := P.drop Config.hdrBytes }

theorem parseFrame_of_le {P : Bytes} (h : 16 ≤ P.length) : parseFrame P = some (frameOf P) :=
  if_neg (Nat.not_lt.2 h)

/-- The result registers show the header of the operand: its three fields, byte by byte in IBUF, and the
payload length (R203, R220). -/
def Results.ShowHeader (s : State) (r : Results) : Prop :=
  r.fwv.toNat = u16Nat (ibufByte s 0) (ibufByte s 1) ∧
    r.dsz.toNat = u16Nat (ibufByte s 2) (ibufByte s 3) ∧
    r.crcs.toNat = u16Nat (ibufByte s 4) (ibufByte s 5) ∧
    r.dlen.toNat = s.inLen.toNat - 16

/-- The fields of the operand's frame are the header's; DATA_LEN's 17 bits hold the length of every payload
that fits a legal N_BUF (R8). -/
theorem withFrame_operand_showHeader (r : Results) {s : State} (hlegal : nBufLegal s.nBuf = true)
    (hn : s.inLen.toNat ≤ s.nBuf) (h16 : 16 ≤ s.inLen.toNat) :
    (r.withFrame (frameOf (operand s)) (operand s)).ShowHeader s := by
  obtain ⟨-, -, hmax⟩ := (nBufLegal_iff s.nBuf).1 hlegal
  have hdlen : (BitVec.ofNat 17 ((operand s).length - Config.hdrBytes)).toNat = s.inLen.toNat - 16 := by
    rw [BitVec.toNat_ofNat, length_operand, Nat.mod_eq_of_lt (by omega)]
  exact ⟨u16le_operand_toNat (by omega), u16le_operand_toNat (by omega), u16le_operand_toNat (by omega),
    hdlen⟩

/-! ## Outcomes without output -/

theorem OutputIs.noOutput {t : State} (h : OutputIs [] t) : NoOutput t := by
  obtain ⟨hlen, hbytes⟩ := h
  exact ⟨BitVec.eq_of_toNat_eq hlen, hbytes⟩

theorem Failed.noOutput {code : BitVec 4} {sub : BitVec 3} {t : State} (h : Failed code sub t) :
    NoOutput t := by
  obtain ⟨-, -, -, -, -, -, hout⟩ := h
  exact hout

/-! ## The error code of an outcome -/

/-- The error code that the completion records: none with success (R140). -/
def CmdOutcome.errcode : CmdOutcome → BitVec 4
  | .ok _ _ => 0
  | .err kind _ _ => kind.code

@[simp] theorem CmdOutcome.errcode_ok (out : Bytes) (r : Results) : (CmdOutcome.ok out r).errcode = 0 := rfl

@[simp] theorem CmdOutcome.errcode_err (k : ErrorKind) (c : CfgSub) (r : Results) :
    (CmdOutcome.err k c r).errcode = k.code := rfl

/-- R260; the literal is in simp's normal form. -/
@[simp] theorem ErrorKind.code_eq_four_iff (k : ErrorKind) : k.code = 4#4 ↔ k = .truncatedFrame := by
  cases k <;> decide

theorem complete_errcode (o : CmdOutcome) (s : State) : (complete o s).errcode = o.errcode := by
  cases o <;> rfl

end Sys2Proof.Machine
end

section
/-! The frame parser's command PARSE, and which commands can meet a truncated frame (43_frame_parser.md R203,
R205). -/

namespace Sys2Proof.Machine

/-! ## PARSE -/

/-- R203: an operand shorter than the header. -/
theorem outcome_parse_short {s : State} (hn : s.inLen.toNat ≤ s.nBuf) (h16 : s.inLen.toNat < 16) :
    outcome .parse s = .err .truncatedFrame .none res0 := by
  rw [outcome_keyless rfl hn, ownOutcome, parseExec, parseFrame_of_lt (by rwa [length_operand])]

/-- R203, R202: the header alone decides the results, whatever it holds. -/
theorem outcome_parse_frame {s : State} (hn : s.inLen.toNat ≤ s.nBuf) (h16 : 16 ≤ s.inLen.toNat) :
    outcome .parse s = .ok [] (res0.withFrame (frameOf (operand s)) (operand s)) := by
  rw [outcome_keyless rfl hn, ownOutcome, parseExec, parseFrame_of_le (by rwa [length_operand])]

/-- Settles O16: the length check, the header check, then the frame's fields. -/
theorem parseReadsTheHeaderFields : Obligations.ParseReadsTheHeaderFields := by
  intro s hlegal
  by_cases hn : s.nBuf < s.inLen.toNat
  · obtain ⟨t, ht, hfailed, hres, hframe⟩ := exec_err (outcome_longOperand .parse hn)
    refine ⟨t, ht, hframe, hfailed.noOutput, ?_⟩
    rw [if_pos hn]
    exact ⟨hfailed, hres⟩
  have hle : s.inLen.toNat ≤ s.nBuf := Nat.le_of_not_lt hn
  by_cases h16 : s.inLen.toNat < 16
  · obtain ⟨t, ht, hfailed, hres, hframe⟩ := exec_err (outcome_parse_short hle h16)
    refine ⟨t, ht, hframe, hfailed.noOutput, ?_⟩
    rw [if_neg hn, if_pos h16]
    exact ⟨hfailed, hres⟩
  · have hhdr : 16 ≤ s.inLen.toNat := Nat.le_of_not_lt h16
    obtain ⟨t, ht, hsucceeded, hout, hres, hframe⟩ := exec_ok hlegal (outcome_parse_frame hle hhdr)
    obtain ⟨hfwv, hdsz, hcrcs, hdlen⟩ := withFrame_operand_showHeader res0 hlegal hle hhdr
    refine ⟨t, ht, hframe, hout.noOutput, ?_⟩
    rw [if_neg hn, if_neg h16, hres]
    exact ⟨hsucceeded, hfwv, hdsz, hcrcs, hdlen, rfl, rfl⟩

/-! ## The sources of TruncatedFrameError -/

theorem verifyFrame_errcode_ne_four (r : Results) (f : Frame) (P out : Bytes) :
    (verifyFrame r f P out).errcode ≠ 4 := by
  unfold verifyFrame
  simp only
  split <;> simp

/-- A plaintext that holds a header parses (R201). -/
theorem unpackPlain_errcode_ne_four (dc rh : Bool) (r : Results) {P : Bytes} (hP : 16 ≤ P.length) :
    (unpackPlain dc rh r P).errcode ≠ 4 := by
  unfold unpackPlain
  split
  · simp
  · rw [parseFrame_of_le hP]
    exact verifyFrame_errcode_ne_four _ _ _ _

/-- R249: the alignment check leaves at least one block of ciphertext, so the plaintext, which is as long,
holds a header. -/
theorem unpackExec_errcode_ne_four (dc rh : Bool) (B K : Bytes) :
    (unpackExec dc rh B K).errcode ≠ 4 := by
  unfold unpackExec
  split
  · simp
  · simp only
    split
    · simp
    · split
      · simp
      · rename_i h
        obtain ⟨hpos, hmod⟩ := (Aes.misaligned_eq_false_iff _).1 (Bool.eq_false_iff.2 h)
        have hP : 16 ≤ (decrypt K (B.drop Config.prefixBytes)).length := by
          rw [length_decrypt K hmod]
          omega
        exact unpackPlain_errcode_ne_four dc rh _ hP

theorem ecbdecExec_errcode_ne_four (B K : Bytes) : (ecbdecExec B K).errcode ≠ 4 := by
  unfold ecbdecExec
  split <;> simp

/-- R205 for the commands' own functions. -/
theorem eq_of_ownOutcome_errcode_eq_four {i : Instr} {B K : Bytes} (h : (ownOutcome i B K).errcode = 4) :
    i = .parse ∨ i = .verify ∨ i = .strip := by
  cases i with
  | unpack dc rh => exact absurd h (unpackExec_errcode_ne_four dc rh B K)
  | ecbdec => exact absurd h (ecbdecExec_errcode_ne_four B K)
  | reverse | crc16 => simp [ownOutcome, reverseExec, crc16Exec] at h
  | parse => exact .inl rfl
  | verify => exact .inr (.inl rfl)
  | strip => exact .inr (.inr rfl)

/-- The common checks raise ConfigError alone, so another error code is the own function's. -/
theorem outcome_eq_ownOutcome_of_errcode_ne_one {i : Instr} {s : State} (h : (outcome i s).errcode ≠ 1) :
    outcome i s = ownOutcome i (operand s) (keyBytes s) := by
  rw [outcome_eq_checked] at h ⊢
  rcases checked_cases (usesKey i) (ownOutcome i) s with ⟨-, hc⟩ | ⟨-, -, -, hc⟩ | ⟨-, -, hc⟩
  · exact absurd (hc ▸ rfl) h
  · exact absurd (hc ▸ rfl) h
  · exact hc

/-- Settles O25: code 4 is no code of the common checks, and of the own functions only those of the three
commands have it. -/
theorem unpackNeverMeetsATruncatedFrame : Obligations.UnpackNeverMeetsATruncatedFrame := by
  intro i s t ht hcode
  rw [exec_eq_complete] at ht
  cases ht
  rw [complete_errcode] at hcode
  have hown := outcome_eq_ownOutcome_of_errcode_ne_one (hcode.trans_ne (by decide))
  have hi := eq_of_ownOutcome_errcode_eq_four (hown ▸ hcode)
  refine ⟨hi, ?_⟩
  rintro dc rh rfl
  simp at hi

end Sys2Proof.Machine
end

section
/-! SUPPORT. The CRC register as a linear machine (44_checksum.md R215, R217): one shift, n shifts and a byte
each carry xor to xor, and each loses nothing of the register. -/

namespace Sys2Proof.Machine

/-! ## One shift -/

/-- One shift is a left shift and, by the bit shifted out, the polynomial. -/
theorem crcBit_eq_xor (c : Half) :
    crcBit c = c <<< 1 ^^^ if c.getLsbD 15 then Config.crcPoly else 0 := by
  unfold crcBit
  split <;> simp

theorem crcBit_of_msb_clear {c : Half} (h : c.getLsbD 15 = false) : crcBit c = c <<< 1 := by
  rw [crcBit, h]
  rfl

theorem crcBit_xor (c d : Half) : crcBit (c ^^^ d) = crcBit c ^^^ crcBit d := by
  have hpoly : (if (c ^^^ d).getLsbD 15 then Config.crcPoly else 0) =
      (if c.getLsbD 15 then Config.crcPoly else 0) ^^^ (if d.getLsbD 15 then Config.crcPoly else 0) := by
    rw [BitVec.getLsbD_xor]
    cases c.getLsbD 15 <;> cases d.getLsbD 15 <;> rfl
  rw [crcBit_eq_xor, crcBit_eq_xor, crcBit_eq_xor, hpoly, BitVec.shiftLeft_xor_distrib]
  ac_rfl

/-- The polynomial has its bit 0 set, so bit 0 after the shift is the bit that was shifted out. -/
theorem crcBit_getLsbD_zero (c : Half) : (crcBit c).getLsbD 0 = c.getLsbD 15 := by
  unfold crcBit
  split <;> simp_all

theorem crcBit_eq_zero {c : Half} (h : crcBit c = 0) : c = 0 := by
  have hmsb : c.getLsbD 15 = false := by rw [← crcBit_getLsbD_zero, h]; rfl
  rw [crcBit_of_msb_clear hmsb] at h
  refine BitVec.eq_of_getLsbD_eq fun i hi => ?_
  rw [BitVec.ofNat_eq_ofNat, BitVec.getLsbD_zero]
  by_cases hi15 : i = 15
  · rwa [hi15]
  · have hbit : (c <<< 1).getLsbD (i + 1) = c.getLsbD i := by
      rw [BitVec.getLsbD_shiftLeft]
      simp [show i + 1 < 16 by omega]
    rw [← hbit, h, BitVec.ofNat_eq_ofNat, BitVec.getLsbD_zero]

/-! ## n shifts -/

theorem crcBits_xor (n : Nat) (c d : Half) : crcBits n (c ^^^ d) = crcBits n c ^^^ crcBits n d := by
  induction n generalizing c d with
  | zero => rfl
  | succ n ih => rw [crcBits, crcBit_xor, ih, crcBits, crcBits]

theorem crcBits_eq_zero {n : Nat} {c : Half} (h : crcBits n c = 0) : c = 0 := by
  induction n generalizing c with
  | zero => exact h
  | succ n ih => exact crcBit_eq_zero (ih h)

theorem crcBits_injective (n : Nat) : Function.Injective (crcBits n) := by
  intro c d h
  have hxor : crcBits n (c ^^^ d) = 0 := by rw [crcBits_xor, h, BitVec.xor_self]; rfl
  exact BitVec.xor_eq_zero_iff.1 (crcBits_eq_zero hxor)

/-- As long as no set bit reaches the top, the register is only shifted. -/
theorem crcBits_eq_shiftLeft {n : Nat} {c : Half} (h : c.toNat * 2 ^ n < 2 ^ 16) :
    crcBits n c = c <<< n := by
  induction n generalizing c with
  | zero => simp [crcBits]
  | succ n ih =>
    have hpow : c.toNat * 2 * 2 ^ n < 2 ^ 16 := by rwa [Nat.mul_assoc, ← Nat.pow_succ']
    have hdouble : c.toNat * 2 < 2 ^ 16 :=
      Nat.lt_of_le_of_lt (Nat.le_mul_of_pos_right _ (Nat.two_pow_pos n)) hpow
    have hmsb : c.getLsbD 15 = false := by
      rw [BitVec.getLsbD, Nat.testBit_lt_two_pow (by omega)]
    have htoNat : (c <<< 1).toNat = c.toNat * 2 := by
      rw [BitVec.toNat_shiftLeft, Nat.shiftLeft_eq, Nat.pow_one, Nat.mod_eq_of_lt hdouble]
    rw [crcBits, crcBit_of_msb_clear hmsb, ih (by rwa [htoNat]), ← BitVec.shiftLeft_add, Nat.add_comm]

/-! ## One byte -/

/-- A byte at the top of the register, where it enters (R215). -/
def topByte (b : Byte) : Half := b.setWidth 16 <<< 8

theorem crcByte_eq (c : Half) (b : Byte) : crcByte c b = crcBits 8 (c ^^^ topByte b) := rfl

theorem topByte_xor (a b : Byte) : topByte (a ^^^ b) = topByte a ^^^ topByte b := by
  rw [topByte, BitVec.setWidth_xor, BitVec.shiftLeft_xor_distrib, topByte, topByte]

theorem topByte_injective : Function.Injective topByte := by
  intro a b h
  have hback (x : Byte) : (topByte x >>> 8).setWidth 8 = x := by
    unfold topByte
    bv_omega
  rw [← hback a, h, hback b]

theorem crcByte_xor (c d : Half) (a b : Byte) :
    crcByte (c ^^^ d) (a ^^^ b) = crcByte c a ^^^ crcByte d b := by
  rw [crcByte_eq, crcByte_eq, crcByte_eq, ← crcBits_xor, topByte_xor]
  congr 1
  ac_rfl

theorem crcByte_injective_register (b : Byte) : Function.Injective (crcByte · b) :=
  fun _ _ h => (BitVec.xor_left_inj _).1 (crcBits_injective 8 h)

theorem crcByte_injective_byte (c : Half) : Function.Injective (crcByte c) :=
  fun _ _ h => topByte_injective ((BitVec.xor_right_inj _).1 (crcBits_injective 8 h))

/-! ## Byte sequences -/

/-- CRC_INIT and CRC_XOROUT are 0 (R215). -/
theorem crc16_eq_foldl (B : Bytes) : crc16 B = B.foldl crcByte 0 := BitVec.xor_zero

theorem crc16_singleton (b : Byte) : crc16 [b] = crcBits 8 (topByte b) :=
  (crc16_eq_foldl [b]).trans (congrArg (crcBits 8) BitVec.zero_xor)

theorem foldl_crcByte_xor (c d : Half) {A B : Bytes} (h : A.length = B.length) :
    (List.zipWith (· ^^^ ·) A B).foldl crcByte (c ^^^ d) =
      A.foldl crcByte c ^^^ B.foldl crcByte d := by
  induction A generalizing c d B with
  | nil => rw [List.length_eq_zero_iff.1 h.symm]; rfl
  | cons a A ih =>
    cases B with
    | nil => cases h
    | cons b B =>
      rw [List.zipWith_cons_cons, List.foldl_cons, crcByte_xor, ih _ _ (Nat.succ.inj h),
        List.foldl_cons, List.foldl_cons]

/-- The bytes that follow never bring two different registers together. -/
theorem foldl_crcByte_injective (B : Bytes) : Function.Injective (B.foldl crcByte) := by
  induction B with
  | nil => exact Function.injective_id
  | cons b B ih => exact ih.comp (crcByte_injective_register b)

/-- Between the same bytes before and after, different bytes make different CRCs. -/
theorem crc16_append_cons_injective (P S : Bytes) :
    Function.Injective fun x => crc16 (P ++ x :: S) := by
  intro x y h
  simp only [crc16_eq_foldl, List.foldl_append, List.foldl_cons] at h
  exact crcByte_injective_byte _ (foldl_crcByte_injective S h)

/-- Any change of a single byte changes the CRC. -/
theorem crc16_set_ne {B : Bytes} {i : Nat} (hi : i < B.length) {x : Byte} (hx : x ≠ B[i]) :
    crc16 (B.set i x) ≠ crc16 B := by
  have hsplit (y : Byte) : B.set i y = B.take i ++ y :: B.drop (i + 1) := by
    rw [List.set_eq_take_append_cons_drop, if_pos hi]
  have hself : B = B.take i ++ B[i] :: B.drop (i + 1) := by rw [← hsplit, List.set_getElem_self]
  intro h
  rw [hsplit, congrArg crc16 hself] at h
  exact hx (crc16_append_cons_injective _ _ h)

end Sys2Proof.Machine
end

section
/-! The laws of the CRC-16 generator: its table form and its algebra (44_checksum.md R216, R217). -/

namespace Sys2Proof.Machine

/-! ## The table form -/

/-- The register as its low byte and the byte at its top, into which a data byte enters. -/
theorem xor_topByte (c : Half) (b : Byte) :
    c ^^^ topByte b = (c.setWidth 8).setWidth 16 ^^^ topByte ((c >>> 8).setWidth 8 ^^^ b) := by
  have hsplit : c = (c.setWidth 8).setWidth 16 ^^^ topByte ((c >>> 8).setWidth 8) := by
    unfold topByte
    ext i hi
    by_cases h : i < 8
    · simp [h, BitVec.getLsbD_eq_getElem hi]
    · have hback : 8 + (i - 8) = i := by omega
      simp [h, hback, BitVec.getLsbD_eq_getElem hi, show i - 8 < 8 by omega]
  rw [topByte_xor, ← BitVec.xor_assoc, ← hsplit]

/-- R216: eight shifts move the low byte up untouched, and the table has what they make of the top byte. -/
theorem crcByte_eq_table (c : Half) (b : Byte) :
    crcByte c b = c <<< 8 ^^^ crc16 [(c >>> 8).setWidth 8 ^^^ b] := by
  have hlow : crcBits 8 ((c.setWidth 8).setWidth 16) = c <<< 8 := by
    rw [crcBits_eq_shiftLeft (by bv_omega)]
    bv_omega
  rw [crcByte_eq, xor_topByte, crcBits_xor, hlow, crc16_singleton]

/-- Settles O32: each byte goes by the table. -/
theorem crcTableFormAgrees : Obligations.CrcTableFormAgrees := by
  refine ⟨fun B => ?_, by decide, by decide, by decide⟩
  rw [crc16_eq_foldl, funext₂ crcByte_eq_table]

/-! ## Linearity -/

/-- Zero bytes leave the zero register as it is. -/
theorem crc16_zeros (n : Nat) : crc16 (List.replicate n 0) = 0 := by
  rw [crc16_eq_foldl]
  induction n with
  | zero => rfl
  | succ n ih =>
    have hzero : crcByte 0 0 = 0 := by decide
    rw [List.replicate_succ, List.foldl_cons, hzero, ih]

theorem crc16_xor {A B : Bytes} (h : A.length = B.length) :
    crc16 (List.zipWith (· ^^^ ·) A B) = crc16 A ^^^ crc16 B := by
  rw [crc16_eq_foldl, crc16_eq_foldl, crc16_eq_foldl]
  exact foldl_crcByte_xor 0 0 h

/-- Settles O33. -/
theorem crcIsLinear : Obligations.CrcIsLinear :=
  ⟨crc16_zeros, fun _ _ => crc16_xor⟩

/-! ## Single-bit errors -/

theorem one_shiftLeft_ne_zero {b : Nat} (hb : b < 8) : 1#8 <<< b ≠ 0 := by
  intro h
  have hbit := congrArg (·.getLsbD b) h
  simp [hb] at hbit

/-- Settles O34: a flipped bit makes another byte, and every other byte makes another CRC. -/
theorem crcDetectsSingleBitErrors : Obligations.CrcDetectsSingleBitErrors := by
  intro B i b hi hb
  refine crc16_set_ne hi fun h => one_shiftLeft_ne_zero hb ?_
  rw [List.getD_eq_getElem B 0 hi] at h
  exact BitVec.xor_right_inj _ |>.1 (h.trans BitVec.xor_zero.symm)

end Sys2Proof.Machine
end

section
/-! The commands CRC16 and VERIFY (44_checksum.md R218-R220). -/

namespace Sys2Proof.Machine

/-! ## Success without output -/

/-- A command that succeeds with no byte of output, for any N_BUF. -/
theorem exec_ok_nil {i : Instr} {s : State} {r : Results} (h : outcome i s = .ok [] r) :
    ∃ t, exec i s = .next t ∧ Succeeded t ∧ NoOutput t ∧ t.res = r ∧ CommandFrame s t := by
  have hout : NoOutput (completeOk [] r s) :=
    ⟨rfl, fun i => obufRead_completeOk [] r s (Nat.two_pow_pos 17) i⟩
  exact ⟨_, exec_eq_complete i s, h ▸ completeOk_succeeded [] r s, h ▸ hout, h ▸ rfl, complete_frame _ s⟩

/-! ## CRC16 -/

/-- R218: past the length check CRC16 answers the CRC of the operand. -/
theorem outcome_crc16 {s : State} (hn : s.inLen.toNat ≤ s.nBuf) :
    outcome .crc16 s = .ok [] { res0 with crcc := crc16 (operand s) } :=
  outcome_keyless rfl hn

/-- Settles O17: the length check decides between the CRC and the common error. -/
theorem crc16ComputesOverTheWholeOperand : Obligations.Crc16ComputesOverTheWholeOperand := by
  intro s
  by_cases hn : s.inLen.toNat ≤ s.nBuf
  · obtain ⟨t, ht, hsucceeded, hout, hres, hframe⟩ := exec_ok_nil (outcome_crc16 hn)
    refine ⟨t, ht, hframe, hout, ?_⟩
    rw [if_pos hn]
    exact ⟨hsucceeded, hres⟩
  · obtain ⟨t, ht, hfailed, hres, hframe⟩ := exec_err (outcome_longOperand .crc16 (Nat.lt_of_not_le hn))
    refine ⟨t, ht, hframe, hfailed.noOutput, ?_⟩
    rw [if_neg hn]
    exact ⟨hfailed, hres⟩

/-! ## The Verify step -/

/-- The record of the Verify step, with either outcome: the frame's fields and the CRC of its payload
(R219, R220). -/
def Results.verified (r : Results) (f : Frame) (P : Bytes) : Results :=
  { r.withFrame f P with crcc := crc16 f.data }

theorem verifyFrame_of_eq {f : Frame} (h : crc16 f.data = f.crc) (r : Results) (P out : Bytes) :
    verifyFrame r f P out = .ok out (r.verified f P) :=
  if_neg (not_not.2 h)

theorem verifyFrame_of_ne {f : Frame} (h : crc16 f.data ≠ f.crc) (r : Results) (P out : Bytes) :
    verifyFrame r f P out = .err .checksumMismatch .none (r.verified f P) :=
  if_pos h

/-! ## VERIFY -/

/-- R220: an operand shorter than the header. -/
theorem outcome_verify_short {s : State} (hn : s.inLen.toNat ≤ s.nBuf) (h16 : s.inLen.toNat < 16) :
    outcome .verify s = .err .truncatedFrame .none res0 := by
  rw [outcome_keyless rfl hn, ownOutcome, verifyExec, parseFrame_of_lt (by rwa [length_operand])]

/-- R220: on an operand with a header VERIFY is the Verify step. -/
theorem outcome_verify_frame {s : State} (hn : s.inLen.toNat ≤ s.nBuf) (h16 : 16 ≤ s.inLen.toNat) :
    outcome .verify s = verifyFrame res0 (frameOf (operand s)) (operand s) [] := by
  rw [outcome_keyless rfl hn, ownOutcome, verifyExec, parseFrame_of_le (by rwa [length_operand])]

/-- R200: the payload of the operand's frame is IBUF[16..IN_LEN). -/
theorem frameOf_operand_data {s : State} (h16 : 16 ≤ s.inLen.toNat) :
    (frameOf (operand s)).data = payload s := by
  have hlen : ((operand s).drop 16).length ≤ s.inLen.toNat - 16 := by
    rw [List.length_drop, length_operand]
  rw [payload, map_range_ibufByte (by omega), List.take_of_length_le hlen]
  rfl

/-- The comparison of the Verify step, in the words of IBUF. -/
theorem frameOf_operand_crc_eq_iff {s : State} (h16 : 16 ≤ s.inLen.toNat) :
    crc16 (frameOf (operand s)).data = (frameOf (operand s)).crc ↔
      (crc16 (payload s)).toNat = u16Nat (ibufByte s 4) (ibufByte s 5) := by
  have hcrc : (frameOf (operand s)).crc.toNat = u16Nat (ibufByte s 4) (ibufByte s 5) :=
    u16le_operand_toNat (by omega)
  rw [frameOf_operand_data h16, ← hcrc, BitVec.toNat_inj]

/-- R220 on an operand with a header: both outcomes leave the same record, and the CRCs choose between
them. -/
theorem exec_verify_frame {s : State} (hn : s.inLen.toNat ≤ s.nBuf) (h16 : 16 ≤ s.inLen.toNat) :
    ∃ t, exec .verify s = .next t ∧ CommandFrame s t ∧ NoOutput t ∧
      t.res = res0.verified (frameOf (operand s)) (operand s) ∧
      (if (crc16 (payload s)).toNat = u16Nat (ibufByte s 4) (ibufByte s 5) then Succeeded t
       else Failed 5 0 t) := by
  have hiff := frameOf_operand_crc_eq_iff h16
  by_cases heq : crc16 (frameOf (operand s)).data = (frameOf (operand s)).crc
  · obtain ⟨t, ht, hsucceeded, hout, hres, hframe⟩ :=
      exec_ok_nil ((outcome_verify_frame hn h16).trans (verifyFrame_of_eq heq _ _ _))
    refine ⟨t, ht, hframe, hout, hres, ?_⟩
    rw [if_pos (hiff.1 heq)]
    exact hsucceeded
  · obtain ⟨t, ht, hfailed, hres, hframe⟩ :=
      exec_err ((outcome_verify_frame hn h16).trans (verifyFrame_of_ne heq _ _ _))
    refine ⟨t, ht, hframe, hfailed.noOutput, hres, ?_⟩
    rw [if_neg (mt hiff.2 heq)]
    exact hfailed

/-- Settles O18: the length check, the header check, then the Verify step on the operand's frame. -/
theorem verifyComparesTheChecksums : Obligations.VerifyComparesTheChecksums := by
  intro s hlegal
  by_cases hn : s.nBuf < s.inLen.toNat
  · obtain ⟨t, ht, hfailed, hres, hframe⟩ := exec_err (outcome_longOperand .verify hn)
    refine ⟨t, ht, hframe, hfailed.noOutput, ?_⟩
    rw [if_pos hn]
    exact ⟨hfailed, hres⟩
  have hle : s.inLen.toNat ≤ s.nBuf := Nat.le_of_not_lt hn
  by_cases h16 : s.inLen.toNat < 16
  · obtain ⟨t, ht, hfailed, hres, hframe⟩ := exec_err (outcome_verify_short hle h16)
    refine ⟨t, ht, hframe, hfailed.noOutput, ?_⟩
    rw [if_neg hn, if_pos h16]
    exact ⟨hfailed, hres⟩
  · have hhdr : 16 ≤ s.inLen.toNat := Nat.le_of_not_lt h16
    obtain ⟨t, ht, hframe, hout, hres, hends⟩ := exec_verify_frame hle hhdr
    obtain ⟨hfwv, hdsz, hcrcs, hdlen⟩ := withFrame_operand_showHeader res0 hlegal hle hhdr
    refine ⟨t, ht, hframe, hout, ?_⟩
    rw [if_neg hn, if_neg h16, hres]
    exact ⟨hfwv, hdsz, hcrcs, hdlen, rfl, congrArg crc16 (frameOf_operand_data hhdr), hends⟩

end Sys2Proof.Machine
end

section
/-! The triple-reversal decryption (45_pipeline.md R237): it works block by block (R247), and it undoes the
reference encryption of R251. -/

namespace Sys2Proof.Machine

/-! ## Block by block -/

/-- A window of a reversed sequence is the reversal of the window that lies as far from the other end. -/
theorem rev_window {X : Bytes} {k n j : Nat} (h : k + n + j = X.length) :
    ((rev X).drop k).take n = rev ((X.drop j).take n) := by
  rw [rev, List.drop_reverse, List.take_reverse, List.length_take, List.drop_take, rev,
    show X.length - k - (min (X.length - k) X.length - n) = n by omega,
    show min (X.length - k) X.length - n = j by omega]

/-- R247: block i of the plaintext comes of block i of the ciphertext alone, since the two reversals of the
sequence move it to the mirrored place and back. -/
theorem decrypt_window (K : Bytes) {C : Bytes} {m i : Nat} (hC : C.length = 16 * m) (hi : i < m) :
    ((decrypt K C).drop (16 * i)).take 16 = rev (Aes.aesDec (rev K) (rev ((C.drop (16 * i)).take 16))) := by
  have hrev : (rev C).length = 16 * m := by rw [length_rev, hC]
  have hdec : (Aes.ecbDec (rev K) (rev C)).length = 16 * m := by
    rw [Aes.length_ecbDec _ (by omega), hrev]
  rw [decrypt, rev_window (j := 16 * (m - 1 - i)) (by omega), Aes.ecbDec_window _ (by omega),
    rev_window (j := 16 * i) (by omega)]

/-- Settles O27. -/
theorem decryptIsBlockLocal : Obligations.DecryptIsBlockLocal := by
  intro K C m _ hC
  exact ⟨length_decrypt K (by omega), fun i hi => decrypt_window K hC hi⟩

/-! ## The reference encryption -/

@[simp] theorem rev_rev (B : Bytes) : rev (rev B) = B := List.reverse_reverse B

theorem Aes.length_ecbEncBlocks (K : Bytes) (n : Nat) (B : Bytes) :
    (Aes.ecbEncBlocks K n B).length = 16 * n := by
  induction n generalizing B with
  | zero => rfl
  | succ n ih =>
    rw [Aes.ecbEncBlocks, List.length_append, Aes.length_aesEnc, ih]
    omega

/-- Each block is encrypted and decrypted by itself, and there the two ciphers are inverse (R179). -/
theorem Aes.ecbDecBlocks_ecbEncBlocks {K : Bytes} (hK : K.length = 16) {n : Nat} {B : Bytes}
    (hB : B.length = 16 * n) : Aes.ecbDecBlocks K n (Aes.ecbEncBlocks K n B) = B := by
  induction n generalizing B with
  | zero => exact (List.length_eq_zero_iff.1 hB).symm
  | succ n ih =>
    have hblock : (B.take Config.blockBytes).length = 16 := by
      simp only [List.length_take, Config.blockBytes]
      omega
    have hrest : (B.drop Config.blockBytes).length = 16 * n := by
      simp only [List.length_drop, Config.blockBytes]
      omega
    obtain ⟨hdec, -⟩ := Aes.aesDecAndAesEncAreInverse K _ hK hblock
    have hlen := Aes.length_aesEnc K (B.take Config.blockBytes)
    rw [Aes.ecbEncBlocks, Aes.ecbDecBlocks, List.take_left' hlen, List.drop_left' hlen, hdec, ih hrest,
      List.take_append_drop]

theorem Aes.ecbDec_ecbEnc {K B : Bytes} (hK : K.length = 16) (hB : B.length % 16 = 0) :
    Aes.ecbDec K (Aes.ecbEnc K B) = B := by
  have hblocks : B.length = 16 * (B.length / 16) := by omega
  have hlen : (Aes.ecbEnc K B).length = B.length :=
    (Aes.length_ecbEncBlocks K _ B).trans hblocks.symm
  rw [Aes.ecbDec, hlen]
  exact Aes.ecbDecBlocks_ecbEncBlocks hK hblocks

/-- R251: the three reversals of the encryption meet those of the decryption. -/
theorem decrypt_encrypt {K P : Bytes} (hK : K.length = 16) (hP : P.length % 16 = 0) :
    decrypt K (Aes.encrypt K P) = P := by
  rw [decrypt, Aes.encrypt, rev_rev, Aes.ecbDec_ecbEnc (by rwa [length_rev]) (by rwa [length_rev]), rev_rev]

end Sys2Proof.Machine
end

section
/-! The command STRIP (45_pipeline.md R248), and the output after an error (R252). -/

namespace Sys2Proof.Machine

/-! ## Errors -/

/-- Settles O13: only the completion of an error sets ERR, and it leaves no output. -/
theorem failedCommandsShowNoOutput : Obligations.FailedCommandsShowNoOutput := by
  intro i s t ht herr
  rw [exec_eq_complete] at ht
  cases ht
  cases ho : outcome i s with
  | ok out r =>
    rw [ho, complete, completeOk_err] at herr
    cases herr
  | err kind sub r => exact ⟨noOutput_raiseError kind sub r s, rfl⟩

/-! ## STRIP -/

theorem length_payload (s : State) : (payload s).length = s.inLen.toNat - 16 := by
  rw [payload, List.length_map, List.length_range]

theorem payload_getD_of_lt {s : State} {i : Nat} (hi : i < s.inLen.toNat - 16) :
    (payload s).getD i 0 = ibufByte s (16 + i) := by
  rw [payload, List.getD_eq_getElem?_getD, List.getElem?_map, List.getElem?_range hi, Option.map_some,
    Option.getD_some]

theorem payload_getD_of_le {s : State} {i : Nat} (hi : s.inLen.toNat - 16 ≤ i) :
    (payload s).getD i 0 = 0 :=
  List.getD_eq_default _ _ (by rwa [length_payload])

/-- R248: an operand shorter than the header. -/
theorem outcome_strip_short {s : State} (hn : s.inLen.toNat ≤ s.nBuf) (h16 : s.inLen.toNat < 16) :
    outcome .strip s = .err .truncatedFrame .none res0 := by
  rw [outcome_keyless rfl hn, ownOutcome, stripExec, if_pos (by rwa [length_operand])]

/-- R248: the payload of an operand with a header is its part from byte 16 on. -/
theorem outcome_strip_payload {s : State} (hn : s.inLen.toNat ≤ s.nBuf) (h16 : 16 ≤ s.inLen.toNat) :
    outcome .strip s = .ok (payload s) res0 := by
  rw [outcome_keyless rfl hn, ownOutcome, stripExec, if_neg (by rwa [length_operand, Nat.not_lt]),
    ← frameOf_operand_data h16]
  rfl

/-- Settles O15: the length check, the header check, then the payload read off byte by byte. -/
theorem stripDropsSixteenBytes : Obligations.StripDropsSixteenBytes := by
  intro s hlegal
  by_cases hn : s.nBuf < s.inLen.toNat
  · obtain ⟨t, ht, hfailed, hres, hframe⟩ := exec_err (outcome_longOperand .strip hn)
    refine ⟨t, ht, hframe, hres, ?_⟩
    rw [if_pos hn]
    exact hfailed
  have hle : s.inLen.toNat ≤ s.nBuf := Nat.le_of_not_lt hn
  by_cases h16 : s.inLen.toNat < 16
  · obtain ⟨t, ht, hfailed, hres, hframe⟩ := exec_err (outcome_strip_short hle h16)
    refine ⟨t, ht, hframe, hres, ?_⟩
    rw [if_neg hn, if_pos h16]
    exact hfailed
  · obtain ⟨t, ht, hsucceeded, ⟨hlen, hbytes⟩, hres, hframe⟩ :=
      exec_ok hlegal (outcome_strip_payload hle (Nat.le_of_not_lt h16))
    refine ⟨t, ht, hframe, hres, ?_⟩
    rw [if_neg hn, if_neg h16]
    exact ⟨hsucceeded, hlen.trans (length_payload s), fun i hi => (hbytes i).trans (payload_getD_of_lt hi),
      fun i hi => (hbytes i).trans (payload_getD_of_le hi)⟩

end Sys2Proof.Machine
end

section
/-! SUPPORT. UNPACK past the common checks (45_pipeline.md R238): its states one by one, in the words of the
container in IBUF. -/

namespace Sys2Proof.Machine

/-! ## The container -/

/-- R235: the ciphertext is the container without its two version bytes. -/
theorem ciphertext_eq_drop_operand {s : State} (h2 : 2 ≤ s.inLen.toNat) :
    ciphertext s = (operand s).drop 2 := by
  have hlen : ((operand s).drop 2).length ≤ s.inLen.toNat - 2 := by rw [List.length_drop, length_operand]
  rw [ciphertext, map_range_ibufByte (by omega), List.take_of_length_le hlen]

@[simp] theorem length_ciphertext (s : State) : (ciphertext s).length = s.inLen.toNat - 2 := by
  rw [ciphertext, List.length_map, List.length_range]

/-- The record after ReadHeader: FMT_VER alone (R239, R240). -/
def versionRead (s : State) : Results := { res0 with fmt := u16le (operand s) 0 }

theorem versionRead_fmt_toNat {s : State} (h2 : 2 ≤ s.inLen.toNat) :
    (versionRead s).fmt.toNat = u16Nat (ibufByte s 0) (ibufByte s 1) :=
  u16le_operand_toNat h2

/-- The test of the version gate (R240), on the container's first two bytes. -/
theorem unsupported_iff {s : State} (h2 : 2 ≤ s.inLen.toNat) (dc : Bool) :
    (dc = false ∧ u16le (operand s) 0 ≠ Config.supportedFmt) ↔
      (dc = false ∧ u16Nat (ibufByte s 0) (ibufByte s 1) ≠ 0x0010) := by
  rw [← versionRead_fmt_toNat h2]
  exact and_congr_right' (not_congr BitVec.toNat_inj.symm)

/-- The test of the Decrypt state (R242), on IN_LEN. -/
theorem misaligned_ciphertext_iff (s : State) :
    Aes.misaligned (ciphertext s) = true ↔
      ¬(0 < s.inLen.toNat - 2 ∧ (s.inLen.toNat - 2) % 16 = 0) := by
  rw [← length_ciphertext, ← Aes.misaligned_eq_false_iff, Bool.not_eq_false]

/-! ## The states -/

section
variable {s : State} (hn : s.inLen.toNat ≤ s.nBuf) (hk : s.kw = 0b1111)
include hn hk

/-- R239: a container shorter than its version field. -/
theorem outcome_unpack_short (dc rh : Bool) (h2 : s.inLen.toNat < 2) :
    outcome (.unpack dc rh) s = .err .shortContainer .none res0 := by
  rw [outcome_keyed _ hn hk, ownOutcome, unpackExec, if_pos (by rwa [length_operand])]

/-- R238 on a container with a version field: the version gate, the alignment check, then the plaintext. -/
theorem outcome_unpack_eq (dc rh : Bool) (h2 : 2 ≤ s.inLen.toNat) :
    outcome (.unpack dc rh) s =
      if dc = false ∧ u16Nat (ibufByte s 0) (ibufByte s 1) ≠ 0x0010 then
        .err .unsupportedVersion .none (versionRead s)
      else if 0 < s.inLen.toNat - 2 ∧ (s.inLen.toNat - 2) % 16 = 0 then
        unpackPlain dc rh (versionRead s) (decrypt (keyBytes s) (ciphertext s))
      else .err .blockAlignment .none (versionRead s) := by
  rw [outcome_keyed _ hn hk, ownOutcome, unpackExec, if_neg (by rwa [length_operand, Nat.not_lt])]
  simp only [← ciphertext_eq_drop_operand h2, unsupported_iff h2, misaligned_ciphertext_iff, ite_not]
  rfl

end

/-! ## The plaintext -/

/-- The result registers that the completion records (R140). -/
def CmdOutcome.res : CmdOutcome → Results
  | .ok _ r => r
  | .err _ _ r => r

theorem complete_res (o : CmdOutcome) (s : State) : (complete o s).res = o.res := by
  cases o <;> rfl

/-- The Verify step neither reads nor writes FMT_VER, and its one error is ChecksumMismatchError. -/
theorem verifyFrame_answers (r : Results) (f : Frame) (P out : Bytes) :
    (verifyFrame r f P out).res.fmt = r.fmt ∧
      ((verifyFrame r f P out).errcode = 0 ∨ (verifyFrame r f P out).errcode = 5) := by
  by_cases h : crc16 f.data = f.crc
  · rw [verifyFrame_of_eq h]
    exact ⟨rfl, .inl rfl⟩
  · rw [verifyFrame_of_ne h]
    exact ⟨rfl, .inr rfl⟩

/-- With checks enabled a plaintext that holds a header goes to the Verify step (R244, R249). -/
theorem unpackPlain_checked {P : Bytes} (hP : 16 ≤ P.length) (rh : Bool) (r : Results) :
    unpackPlain false rh r P = verifyFrame r (frameOf P) P (emitted rh P) := by
  rw [unpackPlain, parseFrame_of_le hP]
  rfl

/-- Past the alignment check FMT_VER stays, and the one error left is ChecksumMismatchError. -/
theorem unpackPlain_answers {P : Bytes} (hP : 16 ≤ P.length) (dc rh : Bool) (r : Results) :
    (unpackPlain dc rh r P).res.fmt = r.fmt ∧
      ((unpackPlain dc rh r P).errcode = 0 ∨ (unpackPlain dc rh r P).errcode = 5) := by
  cases dc with
  | true => exact ⟨rfl, .inl rfl⟩
  | false =>
    rw [unpackPlain_checked hP]
    exact verifyFrame_answers _ _ _ _

/-- R237: the plaintext is as long as the ciphertext. -/
theorem length_decrypt_ciphertext {s : State} (hC : (s.inLen.toNat - 2) % 16 = 0) :
    (decrypt (keyBytes s) (ciphertext s)).length = s.inLen.toNat - 2 := by
  rw [length_decrypt _ (by rwa [length_ciphertext]), length_ciphertext]

/-- R249: the alignment check lets only plaintexts through that hold a header. -/
theorem header_le_length_plaintext {s : State}
    (hC : 0 < s.inLen.toNat - 2 ∧ (s.inLen.toNat - 2) % 16 = 0) :
    16 ≤ (decrypt (keyBytes s) (ciphertext s)).length := by
  obtain ⟨hpos, hmod⟩ := hC
  rw [length_decrypt_ciphertext hmod]
  omega

end Sys2Proof.Machine
end

section
/-! The checks of UNPACK (45_pipeline.md R239, R240, R242). -/

namespace Sys2Proof.Machine

/-- Settles O20. -/
theorem unpackRefusesShortContainers : Obligations.UnpackRefusesShortContainers :=
  fun dc rh _ hn hk h2 => exec_err (outcome_unpack_short hn hk dc rh h2)

/-- R240: a container that passes the version gate keeps the version read, and no later state raises the
gate's error. -/
theorem outcome_unpack_supported {s : State} (hn : s.inLen.toNat ≤ s.nBuf) (hk : s.kw = 0b1111)
    {dc : Bool} (rh : Bool) (h2 : 2 ≤ s.inLen.toNat)
    (hv : ¬(dc = false ∧ u16Nat (ibufByte s 0) (ibufByte s 1) ≠ 0x0010)) :
    (outcome (.unpack dc rh) s).res.fmt = (versionRead s).fmt ∧
      (outcome (.unpack dc rh) s).errcode ≠ 2 := by
  rw [outcome_unpack_eq hn hk dc rh h2, if_neg hv]
  split
  next hC =>
    obtain ⟨hfmt, hcode⟩ := unpackPlain_answers (header_le_length_plaintext hC) dc rh (versionRead s)
    refine ⟨hfmt, ?_⟩
    rcases hcode with hcode | hcode <;> rw [hcode] <;> decide
  next =>
    have hcode : ErrorKind.blockAlignment.code ≠ 2 := by decide
    exact ⟨rfl, hcode⟩

/-- Settles O21: the gate is the first check of a container that has a version. -/
theorem unpackGatesTheFormatVersion : Obligations.UnpackGatesTheFormatVersion := by
  intro dc rh s hn hk h2
  by_cases hv : dc = false ∧ u16Nat (ibufByte s 0) (ibufByte s 1) ≠ 0x0010
  · have ho := outcome_unpack_eq hn hk dc rh h2
    rw [if_pos hv] at ho
    obtain ⟨t, ht, hfailed, hres, hframe⟩ := exec_err ho
    refine ⟨t, ht, hframe, hres ▸ versionRead_fmt_toNat h2, ?_⟩
    rw [if_pos hv, hres]
    exact ⟨hfailed, rfl⟩
  · obtain ⟨hfmt, hcode⟩ := outcome_unpack_supported hn hk rh h2 hv
    refine ⟨_, exec_eq_complete _ s, complete_frame _ s, ?_, ?_⟩
    · rw [complete_res, hfmt, versionRead_fmt_toNat h2]
    · rw [if_neg hv, complete_errcode]
      exact hcode

/-- Settles O22: the alignment check comes right after the gate, and past it no state raises its error. -/
theorem unpackRefusesMisalignedCiphertexts : Obligations.UnpackRefusesMisalignedCiphertexts := by
  intro dc rh s hn hk h2
  have ho := outcome_unpack_eq hn hk dc rh h2
  by_cases hv : dc = false ∧ u16Nat (ibufByte s 0) (ibufByte s 1) ≠ 0x0010
  · rw [if_pos hv] at ho
    refine ⟨_, exec_eq_complete _ s, complete_frame _ s, ?_⟩
    rw [if_pos hv, complete_errcode, ho]
    rfl
  rw [if_neg hv] at ho
  by_cases hC : 0 < s.inLen.toNat - 2 ∧ (s.inLen.toNat - 2) % 16 = 0
  · obtain ⟨-, hcode⟩ := unpackPlain_answers (header_le_length_plaintext hC) dc rh (versionRead s)
    refine ⟨_, exec_eq_complete _ s, complete_frame _ s, ?_⟩
    rw [if_neg hv, if_pos hC, complete_errcode, ho, if_pos hC]
    rcases hcode with hcode | hcode <;> rw [hcode] <;> decide
  · rw [if_neg hC] at ho
    obtain ⟨t, ht, hfailed, hres, hframe⟩ := exec_err ho
    refine ⟨t, ht, hframe, ?_⟩
    rw [if_neg hv, if_neg hC, hres]
    exact ⟨hfailed, rfl, versionRead_fmt_toNat h2⟩

end Sys2Proof.Machine
end

section
/-! The plaintext that UNPACK outputs (45_pipeline.md R244-R246, R250), and the round trip with the reference
encryption (R251). -/

namespace Sys2Proof.Machine

/-! ## Checks disabled -/

/-- With checks disabled an aligned container is decrypted, whatever its version and CRC (R240, R244). -/
theorem outcome_unpack_unchecked {s : State} (hn : s.inLen.toNat ≤ s.nBuf) (hk : s.kw = 0b1111) (rh : Bool)
    (h2 : 2 < s.inLen.toNat) (hmod : (s.inLen.toNat - 2) % 16 = 0) :
    outcome (.unpack true rh) s =
      .ok (emitted rh (decrypt (keyBytes s) (ciphertext s))) (versionRead s) := by
  rw [outcome_unpack_eq hn hk true rh h2.le, if_neg (by simp), if_pos ⟨by omega, hmod⟩]
  rfl

/-- Settles O23: the output and its length are those of the plaintext, with or without its header. -/
theorem uncheckedUnpackOutputsThePlaintext : Obligations.UncheckedUnpackOutputsThePlaintext := by
  intro rh s hlegal hn hk h2 hmod
  obtain ⟨t, ht, hsucceeded, hout, hres, hframe⟩ :=
    exec_ok hlegal (outcome_unpack_unchecked hn hk rh h2 hmod)
  refine ⟨t, ht, hsucceeded, hframe, hout, ?_, ?_, ?_⟩
  · obtain ⟨hlen, -⟩ := hout
    rw [hlen, length_emitted, length_decrypt_ciphertext hmod]
    exact if_congr Iff.rfl (Nat.sub_sub _ 2 16) rfl
  · rw [hres]
    rfl
  · rw [hres, versionRead_fmt_toNat h2.le]

/-- The format version of a container that begins with its two bytes, low byte first (R235). -/
theorem u16le_versionBytes (f : Half) (C : Bytes) :
    u16le ([f.setWidth 8, (f >>> 8).setWidth 8] ++ C) 0 = f := by
  simp only [u16le, List.cons_append, List.getD_cons_zero, List.getD_cons_succ]
  bv_omega

/-- Settles O26: the container's ciphertext is the encryption of P, which the decryption undoes. -/
theorem unpackInvertsTheReferenceEncryption : Obligations.UnpackInvertsTheReferenceEncryption := by
  intro s K P f hlegal hk hK hkey hpos hmod hfits hlen hB
  obtain ⟨-, hmin, -⟩ := (nBufLegal_iff s.nBuf).1 hlegal
  have hC : ciphertext s = Aes.encrypt K P := by
    rw [ciphertext_eq_drop_operand (by omega), hB]
    rfl
  have hP : decrypt (keyBytes s) (ciphertext s) = P := by rw [hkey, hC, decrypt_encrypt hK hmod]
  obtain ⟨t, ht, hsucceeded, hout, hres, -⟩ := exec_ok hlegal
    (outcome_unpack_unchecked (by omega) hk false (by omega) (by omega))
  refine ⟨t, ht, hsucceeded, hP ▸ hout, ?_⟩
  rw [hres, versionRead, hB, u16le_versionBytes]

/-! ## Checks enabled -/

/-- The comparison of the Verify step, on the bytes of the plaintext. -/
theorem frameOf_crc_eq_iff (P : Bytes) :
    crc16 (frameOf P).data = (frameOf P).crc ↔
      (crc16 (P.drop 16)).toNat = u16Nat (P.getD 4 0) (P.getD 5 0) := by
  rw [← u16le_toNat P 4]
  exact BitVec.toNat_inj.symm

/-- With checks enabled an aligned container of the supported version goes to the Verify step (R238). -/
theorem outcome_unpack_checked {s : State} (hn : s.inLen.toNat ≤ s.nBuf) (hk : s.kw = 0b1111) (rh : Bool)
    (h2 : 2 < s.inLen.toNat) (hmod : (s.inLen.toNat - 2) % 16 = 0)
    (hv : u16Nat (ibufByte s 0) (ibufByte s 1) = 0x0010) {P : Bytes}
    (hP : P = decrypt (keyBytes s) (ciphertext s)) :
    outcome (.unpack false rh) s = verifyFrame (versionRead s) (frameOf P) P (emitted rh P) := by
  have hC : 0 < s.inLen.toNat - 2 ∧ (s.inLen.toNat - 2) % 16 = 0 := ⟨by omega, hmod⟩
  rw [outcome_unpack_eq hn hk false rh h2.le, if_neg fun ⟨_, hne⟩ => hne hv, if_pos hC, ← hP,
    unpackPlain_checked (hP ▸ header_le_length_plaintext hC)]

/-- A command that ends in the Verify step: both outcomes leave the same record, and the CRCs choose between
them (R244, R250). -/
theorem exec_verifyFrame {i : Instr} {s : State} (hlegal : nBufLegal s.nBuf = true) {r : Results}
    {P out : Bytes} (ho : outcome i s = verifyFrame r (frameOf P) P out) :
    ∃ t, exec i s = .next t ∧ CommandFrame s t ∧ t.res = r.verified (frameOf P) P ∧
      (if (crc16 (P.drop 16)).toNat = u16Nat (P.getD 4 0) (P.getD 5 0) then
        Succeeded t ∧ OutputIs out t
       else Failed 5 0 t) := by
  have hiff := frameOf_crc_eq_iff P
  by_cases heq : crc16 (frameOf P).data = (frameOf P).crc
  · obtain ⟨t, ht, hsucceeded, hout, hres, hframe⟩ := exec_ok hlegal (ho.trans (verifyFrame_of_eq heq _ _ _))
    refine ⟨t, ht, hframe, hres, ?_⟩
    rw [if_pos (hiff.1 heq)]
    exact ⟨hsucceeded, hout⟩
  · obtain ⟨t, ht, hfailed, hres, hframe⟩ := exec_err (ho.trans (verifyFrame_of_ne heq _ _ _))
    refine ⟨t, ht, hframe, hres, ?_⟩
    rw [if_neg (mt hiff.2 heq)]
    exact hfailed

/-- Settles O24: the Verify step on the plaintext's frame, its record read field by field. -/
theorem checkedUnpackVerifiesThePlaintext : Obligations.CheckedUnpackVerifiesThePlaintext := by
  intro rh s P hlegal hn hk h2 hmod hv hP
  obtain ⟨t, ht, hframe, hres, hends⟩ :=
    exec_verifyFrame hlegal (outcome_unpack_checked hn hk rh h2 hmod hv hP)
  have hfmt : (versionRead s).fmt = 0x0010 :=
    BitVec.eq_of_toNat_eq ((versionRead_fmt_toNat h2.le).trans hv)
  have hdlen : (BitVec.ofNat 17 (P.length - Config.hdrBytes)).toNat = s.inLen.toNat - 18 := by
    obtain ⟨-, -, hmax⟩ := (nBufLegal_iff s.nBuf).1 hlegal
    rw [hP, length_decrypt_ciphertext hmod, BitVec.toNat_ofNat, Nat.mod_eq_of_lt (by omega)]
    exact Nat.sub_sub _ 2 16
  refine ⟨t, ht, hframe, ?_⟩
  rw [hres]
  exact ⟨hfmt, u16le_toNat P 0, u16le_toNat P 2, u16le_toNat P 4, rfl, hdlen, hends⟩

end Sys2Proof.Machine
end

section
/-! What a running command lets the host see: no output (10_state.md R47, R301) and no interrupt
(60_exceptions.md R270, R272). -/

namespace Sys2Proof.Machine

/-- A cell at or beyond OUT_LEN reads 0, whatever OBUF stores there (R47, R77). -/
theorem obufRead_of_outLen_le {s : State} {i : Nat} (h : s.outLen.toNat ≤ i) : obufRead s i = 0 :=
  if_neg (Nat.not_lt.2 h)

/-- OUT_LEN alone decides whether there is output (R47). -/
theorem noOutput_iff_outLen {s : State} : NoOutput s ↔ s.outLen = 0 where
  mp := fun ⟨hlen, _⟩ => hlen
  mpr hlen := ⟨hlen, fun i => obufRead_of_outLen_le (by simp [hlen])⟩

theorem NoOutput.regValue_outLen {s : State} (h : NoOutput s) : regValue s .outLen = 0 := by
  obtain ⟨hlen, -⟩ := h
  rw [regValue, hlen]
  rfl

/-- The interrupt is low while neither DONE nor ERR is set, whatever IE is (R270). -/
theorem irq_eq_false {s : State} (hdone : s.done = false) (herr : s.err = false) : irq s = false := by
  simp [irq, hdone, herr]

/-- Settles O59: the invariant that acceptance establishes (`busy_clean`) gives DONE = ERR = 0 and OUT_LEN = 0
while BUSY = 1, and what the host sees depends on these alone. -/
theorem nothingShowsWhileBusy : Obligations.NothingShowsWhileBusy := by
  intro s hinv hbusy
  obtain ⟨hdone, herr, hlen⟩ := hinv.busy_clean hbusy
  have hout : NoOutput s := noOutput_iff_outLen.2 hlen
  exact ⟨hout, hout.regValue_outLen, irq_eq_false hdone herr⟩

end Sys2Proof.Machine
end

section
/-! What changes the key (70_reset_and_hazards.md R295): the write of a KEY register, the key clear of CTRL, and
reset. -/

namespace Sys2Proof.Machine

/-- The key bytes and the key-written bits are the same in t as in s (R43, R44). -/
def SameKey (s t : State) : Prop := keyBytes t = keyBytes s ∧ t.kw = s.kw

theorem SameKey.refl (s : State) : SameKey s s := ⟨rfl, rfl⟩

theorem SameKey.whenIdle {w : State → State} {s : State} (h : SameKey s (w s)) :
    SameKey s (whenIdle w s) := by
  rcases whenIdle_cases w s with ⟨-, hw⟩ | ⟨-, hw⟩
  · exact hw ▸ ⟨rfl, rfl⟩
  · exact hw ▸ h

theorem SameOperands.sameKey {s t : State} (h : SameOperands s t) : SameKey s t := by
  obtain ⟨-, -, -, hkey, hkw, -⟩ := h
  exact ⟨hkey, hkw⟩

/-- A write of v to this target is one of the host's two ways to change the key: it reaches a KEY register, or
CTRL with KEY_CLR set (R295). -/
def WritesKey (tgt : Target) (v : Word) : Prop :=
  (∃ r ∈ [Reg.key0, .key1, .key2, .key3], tgt = .reg r) ∨ (tgt = .reg .ctrl ∧ v.getLsbD 1 = true)

theorem writeReg_key (r : Reg) (v : Word) (s : State) :
    WritesKey (.reg r) v ∨ SameKey s (writeReg r v s) := by
  cases r with
  | key0 | key1 | key2 | key3 => exact .inl (.inl ⟨_, by decide, rfl⟩)
  | ctrl =>
    cases hv : v.getLsbD 1 with
    | true => exact .inl (.inr ⟨rfl, hv⟩)
    | false =>
      rw [writeReg, writeCtrl_eq, hv]
      exact .inr ⟨rfl, rfl⟩
  | status =>
    rw [writeReg, writeStatus_eq]
    exact .inr ⟨rfl, rfl⟩
  | cmd | inLen => exact .inr (.whenIdle ⟨rfl, rfl⟩)
  | id | bufsz | outLen | fmtVer | fwVer | dataSize | crcStored | crcCalc | dataLen => exact .inr (.refl s)

theorem writeTarget_key (n : Width) (tgt : Target) (v : Word) (s : State) :
    WritesKey tgt v ∨ SameKey s (writeTarget n tgt v s) := by
  cases tgt with
  | reg r => exact writeReg_key r v s
  | ibuf i => exact .inr (.whenIdle ⟨rfl, rfl⟩)
  | obuf i => exact .inr (.refl s)

/-- An answered transaction is a write that may change the key, or it leaves the key alone. -/
theorem transact_key {tx : Txn} {s t : State} (h : transact tx s = .next t) :
    (∃ addr n v tgt, tx = .write addr n v ∧ resolve s n addr = some tgt ∧ WritesKey tgt v) ∨
      SameKey s t := by
  rcases transact_cases tx s with ⟨-, -, he⟩ | ⟨-, -, he⟩ | ⟨-, he⟩ <;> rw [he] at h <;> cases h
  · rcases portAccess_cases tx s with hp | ⟨addr, n, tgt, -, -, hp⟩ | ⟨addr, n, v, tgt, htx, ht, hp⟩ <;>
      simp only [hp]
    · exact .inr (.refl s)
    · rcases readTarget_state n tgt s with hs | ⟨-, hs⟩ <;> simp only [hs] <;> exact .inr (.refl s)
    · exact (writeTarget_key n tgt v s).imp (fun hk => ⟨addr, n, v, tgt, htx, ht, hk⟩) id
  · exact .inr (.refl s)

/-- An event of the outside world is the fall of `rst_n` or a write that may change the key, or it leaves the
key alone: `wait` and `readout` only read. -/
theorem envStep_key {e : EnvEvent} {s t : State} (h : envStep e s = .next t) :
    e = .rstLow ∨
    (∃ addr n v tgt, e = .access (.write addr n v) ∧ resolve s n addr = some tgt ∧ WritesKey tgt v) ∨
      SameKey s t := by
  rcases envStep_next h with ⟨rfl, -⟩ | ⟨-, rfl⟩ | ⟨tx, rfl, hx⟩ | ⟨r, s', env, -, hx, rfl⟩
  · exact .inl rfl
  · exact .inr (.inr ⟨rfl, rfl⟩)
  · rcases transact_key hx with ⟨addr, n, v, tgt, rfl, ht, hk⟩ | hsame
    · exact .inr (.inl ⟨addr, n, v, tgt, rfl, ht, hk⟩)
    · exact .inr (.inr hsame)
  · rcases transact_key hx with ⟨_, _, _, _, htx, -⟩ | hsame
    · cases htx
    · exact .inr (.inr hsame)

/-- Settles O58: the frame of a completion holds the key (R139), so only an event can change it. -/
theorem keyChangesOnlyByTheHost : Obligations.KeyChangesOnlyByTheHost := by
  intro s t hs hchange
  have hdiff : ¬ SameKey s t := not_and_or.2 hchange
  rcases step_next hs with ⟨-, o, rfl, -⟩ | ⟨e, rest, ⟨henv, -⟩, he⟩ | ⟨-, -, rfl⟩
  · exact absurd (complete_frame o s).sameOperands.sameKey hdiff
  · refine ⟨e, rest, henv, ?_⟩
    rcases envStep_key he with he | ⟨addr, n, v, tgt, he, ht, hk⟩ | hsame
    · exact .inl he
    · refine .inr ⟨addr, n, v, he, ?_⟩
      rcases hk with ⟨r, hr, rfl⟩ | ⟨rfl, hv⟩
      · exact .inl ⟨r, hr, ht⟩
      · exact .inr ⟨ht, hv⟩
    · exact absurd hsame hdiff
  · exact absurd (.refl _) hdiff

end Sys2Proof.Machine
end

section
/-! The write-while-busy rule (10_state.md R30, 70_reset_and_hazards.md R300): what becomes of a legal write,
target by target, while a command runs. -/

namespace Sys2Proof.Machine

/-- The engine owns CMD, IN_LEN, the key and IBUF while it is BUSY (R27): a write of one of them is dropped. -/
theorem writeTarget_dropped (n : Width) {tgt : Target} (v : Word) {s : State} (hb : s.busy = true)
    (h : tgt ∈ [.reg .cmd, .reg .inLen, .reg .key0, .reg .key1, .reg .key2, .reg .key3] ∨
      ∃ i, tgt = .ibuf i) : writeTarget n tgt v s = dropWrite s := by
  rcases h with h | ⟨i, rfl⟩
  · simp only [List.mem_cons, List.not_mem_nil, or_false] at h
    rcases h with rfl | rfl | rfl | rfl | rfl | rfl <;> simp only [writeTarget, writeReg, whenIdle_busy _ hb]
  · simp only [writeTarget, whenIdle_busy _ hb]

/-- A write of CTRL while BUSY: IE takes its bit, and a key clear sets WR_BUSY instead (R25). -/
theorem writeCtrl_busy (v : Word) {s : State} (hb : s.busy = true) :
    writeCtrl v s = { s with ie := v.getLsbD 0, wrBusy := s.wrBusy || v.getLsbD 1 } := by
  rw [writeCtrl_eq, if_pos hb]
  cases v.getLsbD 1 <;> simp

/-- Read-only registers and OBUF ignore a write, BUSY or not (R47, R300). -/
theorem writeTarget_ignored (n : Width) {tgt : Target} (v : Word) (s : State)
    (h : tgt ∈ [.reg .id, .reg .bufsz, .reg .outLen, .reg .fmtVer, .reg .fwVer, .reg .dataSize,
      .reg .crcStored, .reg .crcCalc, .reg .dataLen] ∨ ∃ i, tgt = .obuf i) :
    writeTarget n tgt v s = s := by
  rcases h with h | ⟨i, rfl⟩
  · simp only [List.mem_cons, List.not_mem_nil, or_false] at h
    rcases h with rfl | rfl | rfl | rfl | rfl | rfl | rfl | rfl | rfl <;> rfl
  · rfl

/-- Settles O45: the step of a legal write is the write of its target, which is dropped, takes effect, or is
ignored. -/
theorem busyWritesAreDropped : Obligations.BusyWritesAreDropped := by
  refine ⟨fun s v n addr tgt rest hr hm ht => ?_, fun s n addr h => ?_⟩
  · have hstep := step_write hr hm ht
    have hbusy : (takeEvent rest s).busy = s.busy := takeEvent_busy rest s
    refine ⟨fun hb htgt => ?dropped, fun hb htgt => ?ctrl, fun hb htgt => ?status, fun htgt => ?ignored⟩
    case dropped =>
      rw [hstep, writeTarget_dropped n v (hbusy.trans hb) htgt]
      rfl
    case ctrl =>
      rw [hstep, htgt, writeTarget, writeReg, writeCtrl_busy v (hbusy.trans hb)]
      rfl
    case status =>
      rw [hstep, htgt, writeTarget, writeReg, writeStatus_eq]
      rfl
    case ignored =>
      rw [hstep, writeTarget_ignored n v _ htgt]
      rfl
  · obtain ⟨tgt, ht⟩ := Option.ne_none_iff_exists'.1 h
    exact ⟨_, congrArg Prod.fst (portAccess_read ht)⟩

end Sys2Proof.Machine
end

section
/-! Reset as two events (70_reset_and_hazards.md R290, R291): the fall of `rst_n` sets the block to its reset
state, its rise lets the block go, and between them nothing else moves the block. -/

namespace Sys2Proof.Machine

/-- With no event pending and `rst_n` at 0 there is nothing to do: a completion needs `rst_n` at 1 (R140,
R290). -/
theorem step_held {s : State} (hr : s.rstN = false) (he : s.env = []) : step s = .next s := by
  simp [step, turn, he, hr]

/-- A transaction while `rst_n` is 0: its response is a free value, and the block stays as it is (R290). -/
theorem transact_held (tx : Txn) {s : State} (hr : s.rstN = false) :
    transact tx s =
      .next { s with resp := some (Config.heldResponse s.draws), draws := s.draws + 1 } := by
  simp [transact, hr]

/-- Settles O52: each of the three events is one step, and without an event the engine does not move. -/
theorem resetAbortsAndHolds : Obligations.ResetAbortsAndHolds := by
  refine ⟨fun s rest hm => ?low, fun s hr he => step_held hr he, fun s tx rest hr hm => ?access,
    fun s rest _ hm => ?high⟩
  case low =>
    rw [step_host hm]
    rfl
  case access =>
    have hr' : (takeEvent rest s).rstN = false := hr
    refine ⟨Config.heldResponse s.draws, s.draws + 1, ?_⟩
    rw [step_host hm, envStep, transact_held tx hr']
    rfl
  case high =>
    rw [step_host hm]
    rfl

end Sys2Proof.Machine
end
